-- ==== Sys2Proof/Word.lean ====
section
/-! DEFINITION. The bit-vector types of the GeoWars NCO, one per width that the spec gives
(R7 of spec/00_scope.md, R20 and R36 of spec/10_state.md, R50 of spec/20_memory.md). -/

namespace Sys2Proof

/-- A 32-bit word: PINC, PHASE, REMAIN, SMP_DATA, the ARG field, the status word. -/
abbrev Word := BitVec 32

/-- A 36-bit command word (R70). -/
abbrev CmdWord := BitVec 36

/-- A ROM index, 0 to 65535 (R50). -/
abbrev RomIndex := BitVec 16

/-- A ROM word, read as Q1.15 (R50). -/
abbrev RomWord := BitVec 16

/-- The width of SRC (R26). -/
abbrev RateReg := BitVec 18

/-- The width of DIV_CNT (R29). -/
abbrev DivCount := BitVec 6

end Sys2Proof
end

