-- ==== Sys2Proof/Syntax.lean ====
section
/-! DEFINITION. The commands of the GeoWars NCO: one constructor per row of spec/opcode_table.json
(R72 of spec/30_encoding.md). -/

namespace Sys2Proof

/-- A command. INIT and BLOCK carry the integer s32(ARG) (R71); NOP, RESET and TICK do not read
ARG (R75) and carry nothing. A reserved word is no command of the table: the decoder rejects it by
name and R76 gives its effect. -/
inductive Instr where
  /-- NOP, OP = 0 (R91). -/
  | nop
  /-- INIT sr, OP = 1 (R93). -/
  | init (sr : Int)
  /-- RESET, OP = 2 (R97). -/
  | reset
  /-- TICK, OP = 3 (R114). -/
  | tick
  /-- BLOCK n, OP = 4 (R121). -/
  | block (n : Int)
  deriving DecidableEq, Repr

end Sys2Proof
end

