-- ==== Sys2Proof/WellFormed.lean ====
section
/-! DEFINITION. Which commands a command word can carry: the operand of INIT and of BLOCK is a 32-bit
two's-complement integer (R71 of spec/30_encoding.md). -/

namespace Sys2Proof

/-- An integer in [−2^31, 2^31 − 1], the range of s32 (R71). -/
def inS32Range (v : Int) : Bool :=
  decide (-2147483648 ≤ v) && decide (v ≤ 2147483647)

/-- The operand checks; a command without operand has none to fail. -/
def Instr.wellFormed : Instr → Bool
  | .nop => true
  | .init sr => inS32Range sr
  | .reset => true
  | .tick => true
  | .block n => inS32Range n

end Sys2Proof
end

