-- ==== Sys2Proof/Decode.lean ====
section
/-! DEFINITION. Decoding and encoding of command words (spec/30_encoding.md, R70 to R76). -/

namespace Sys2Proof

/-- Bits 35:32 of a command word (R70). -/
def opField (w : CmdWord) : BitVec 4 :=
  w.extractLsb' 32 4

/-- Bits 31:0 of a command word (R70). -/
def argField (w : CmdWord) : Word :=
  w.extractLsb' 0 32

/-- The command word with the given fields: OP in the more significant place (R70). -/
def packWord (op : BitVec 4) (arg : Word) : CmdWord :=
  (op ++ arg).cast (by decide)

/-- s32(ARG): the integer the word stands for in two's complement (R13 of spec/00_scope.md, R71). -/
def s32 (arg : Word) : Int :=
  arg.toInt

/-- ARG for an integer operand: v mod 2^32 (R78). -/
def argOf (v : Int) : Word :=
  BitVec.ofInt 32 v

/-- Why a word is no command of the table. -/
inductive DecodeReject where
  /-- OP is one of 0x5 to 0xF (R72, R76): accepted by the block, with the one effect of R76. -/
  | reservedOp (op : BitVec 4)
  deriving DecidableEq, Repr

/-- The decoder, total on every 36-bit word (R74): OP selects the operation (R72). ARG is the operand
of INIT and BLOCK (R71) and is ignored by the others (R75). -/
def decode (w : CmdWord) : Except DecodeReject Instr :=
  match (opField w).toNat with
  | 0 => .ok .nop
  | 1 => .ok (.init (s32 (argField w)))
  | 2 => .ok .reset
  | 3 => .ok .tick
  | 4 => .ok (.block (s32 (argField w)))
  | _ => .error (.reservedOp (opField w))

/-- The OP value of each command (R72). -/
def Instr.opcode : Instr → BitVec 4
  | .nop => 0x0
  | .init _ => 0x1
  | .reset => 0x2
  | .tick => 0x3
  | .block _ => 0x4

/-- The ARG an assembler writes: the operand mod 2^32 (R78), or 0 where ARG is ignored (R75). -/
def Instr.arg : Instr → Word
  | .nop => 0
  | .init sr => argOf sr
  | .reset => 0
  | .tick => 0
  | .block n => argOf n

/-- The command word of a command (R70, R72, R75, R78). -/
def encode (i : Instr) : CmdWord :=
  packWord i.opcode i.arg

/-- The mask of every row of R73. -/
def opMask : CmdWord :=
  0xF00000000

/-- The match of each command's row of R73. -/
def Instr.matchWord : Instr → CmdWord
  | .nop => 0x000000000
  | .init _ => 0x100000000
  | .reset => 0x200000000
  | .tick => 0x300000000
  | .block _ => 0x400000000

/-- The command in an instruction numbered as spec/opcode_table.json numbers it. A command word is one
36-bit word, so the number is the word (log entry 11). -/
def decodeTableWord (_nbits w : Nat) : Option Instr :=
  if w < 2 ^ 36 then (decode (BitVec.ofNat 36 w)).toOption else none

end Sys2Proof
end

