-- ==== Sys2Proof/Config.lean ====
section
/-! DEFINITION. What an implementation fixes and the free values: constants with no body, so that no
proof can see them. Every constant the spec fixes stands in Machine/Params.lean. -/

namespace Sys2Proof

/-- INIT_CYCLES − 1, the value DIV_CNT is loaded with (R161 of spec/70_reset_and_hazards.md).
INIT_CYCLES is OPEN, an integer in [1, 64] (R7), so this is any 6-bit number. Log entry 5. -/
opaque Config.initCyclesLessOne : DivCount

/-- The value PINC shows after the k-th edge that leaves it unspecified: while DIV_CNT ≠ 0 an
implementation may show the old increment, the new one or a partial quotient (R34 of
spec/10_state.md, I3). A free value; log entry 6. -/
opaque Config.freePinc : Nat → Word

/-- ComputePinc of the rate 0, which R94 leaves out of its domain and no run reaches.
A free value; log entry 8. -/
opaque Config.pincOfZeroRate : Word

end Sys2Proof
end

