-- ==== Sys2Proof/Machine/State.lean ====
section
/-! DEFINITION. The state of the GeoWars NCO: every register of R20 of spec/10_state.md, the ROM, and
the model's record of the host's side; the state after hardware reset (R35, R150). -/

namespace Sys2Proof.Machine

/-- The sine ROM as a piece of state (R20, R50). Its content is fixed when the hardware is built and
nothing writes it (R55, R56), so a ROM has exactly one value; Machine/Rom.lean gives its words.
Log entry 1. -/
inductive Rom where
  /-- The ROM holding the quantised, one-sample-delayed sine wavetable of R51. -/
  | sineTable
  deriving DecidableEq, Repr

/-- The input pins at one rising edge of the clock (R36). -/
structure Pins where
  /-- Synchronous reset, active high (R150). -/
  rst : Bool
  /-- A command word is offered (R160). -/
  cmdValid : Bool
  /-- The offered word. -/
  cmdWord : CmdWord
  /-- The consumer takes the sample at this edge (R162). -/
  smpReady : Bool
  deriving DecidableEq, Repr

/-- One thing the host does next, at either of the spec's two levels (R11 of spec/00_scope.md).
Log entry 2. -/
inductive HostInput where
  /-- A command word, run as one whole transaction. -/
  | command (w : CmdWord)
  /-- The input pins of one rising clock edge. -/
  | edge (p : Pins)
  deriving DecidableEq, Repr

/-- The state of the block, then the model's record of the host's side. -/
structure State where
  /-- INIT_DONE: Uninitialized or Ready (R25). -/
  initDone : Bool
  /-- SRC, the clamped sample rate (R26). -/
  src : RateReg
  /-- PINC, the phase increment, UQ0.32 (R22). -/
  pinc : Word
  /-- PHASE, the phase accumulator, UQ0.32 (R23). -/
  phase : Word
  /-- GATE, the previous tick's active flag (R24). -/
  gate : Bool
  /-- ERR_UNINIT, sticky (R27). -/
  errUninit : Bool
  /-- ERR_BADOP, sticky (R27). -/
  errBadop : Bool
  /-- REMAIN, the samples a BLOCK still has to produce (R28). -/
  remain : Word
  /-- DIV_CNT, the remaining busy edges of an INIT (R29). -/
  divCnt : DivCount
  /-- SMP_VALID, the sample port's output register is full (R30). -/
  smpValid : Bool
  /-- SMP_DATA, the output register, Q1.31 (R30). -/
  smpData : Word
  /-- The sine ROM (R20, R50). -/
  rom : Rom
  /-- What the host will still do, next first (R21, R36, R167; log entry 2). -/
  inputs : List HostInput
  /-- The position in the program: the number of commands accepted (R21; log entry 9). -/
  position : Nat
  /-- The samples transferred, oldest first: the output of the run (R11, R169; log entry 9). -/
  samples : List Word
  /-- The number of free values of PINC used so far: the model's own counter (log entry 6). -/
  freeCount : Nat
  deriving DecidableEq, Repr

/-- The recorded errors of a run (R131, R169). No step answers with one: the hardware sets a sticky
flag and carries on, and `runFaults` names the faults of a run that has ended. Log entry 3. -/
inductive Fault where
  /-- The run ended with ERR_UNINIT set. Raised by no step; safe, as it only classifies a state. -/
  | errUninit
  /-- The run ended with ERR_BADOP set. Raised by no step; safe, as it only classifies a state. -/
  | errBadop
  deriving DecidableEq, Repr

/-- Why the model gives no meaning. Every command has one, so nothing raises it. -/
inductive Refusal where
  /-- The command with this mnemonic has no meaning yet. Raised by no arm of exec; safe. -/
  | notModelled (mnemonic : String)
  deriving DecidableEq, Repr

/-- The state right after hardware reset: every register 0 (R35), the host's record empty
(log entries 2, 6 and 9). -/
def State.reset : State where
  initDone := false
  src := 0
  pinc := 0
  phase := 0
  gate := false
  errUninit := false
  errBadop := false
  remain := 0
  divCnt := 0
  smpValid := false
  smpData := 0
  rom := .sineTable
  inputs := []
  position := 0
  samples := []
  freeCount := 0

end Sys2Proof.Machine
end

