-- ==== Sys2Proof/Machine/Flags.lean ====
section
/-! DEFINITION. The flags: setting the sticky error flags (R27, R131), the status word (R33) and the
faults of a run that has ended (R131, R169). -/

namespace Sys2Proof.Machine

/-- SetErr(ERR_UNINIT) (R13, R27). -/
def setErrUninit (s : State) : State :=
  { s with errUninit := true }

/-- SetErr(ERR_BADOP) (R13, R27). -/
def setErrBadop (s : State) : State :=
  { s with errBadop := true }

/-- BUSY, STATUS bit 2 (R33). -/
def busy (s : State) : Bool :=
  s.remain != 0 || s.divCnt != 0

/-- A flag at its place in the status word. -/
def flagAt (b : Bool) (k : Nat) : Word :=
  if b then BitVec.ofNat 32 (2 ^ k) else 0

/-- st_status (R33): bits 31:6 are hardwired 0. -/
def statusWord (s : State) : Word :=
  flagAt s.initDone 0 ||| flagAt s.gate 1 ||| flagAt (busy s) 2 ||| flagAt s.smpValid 3 |||
    flagAt s.errUninit 4 ||| flagAt s.errBadop 5

/-- The faults of a run that ends in this state (R131, R169); none means a run without error. Where a
run ends, and so of which state to ask, is Machine/Run.lean's (endOfRun, runResult, runsWithin). -/
def runFaults (s : State) : List Fault :=
  (if s.errUninit then [Fault.errUninit] else []) ++ (if s.errBadop then [Fault.errBadop] else [])

end Sys2Proof.Machine
end

