-- ==== Sys2Proof/Machine/Params.lean ====
section
/-! DEFINITION. The constants the spec fixes (R6 and R7 of spec/00_scope.md). -/

namespace Sys2Proof.Machine

/-- TABLE_LEN (R6). -/
def tableLen : Nat := 65536

/-- FREQ, in Hz (R6). -/
def freq : Nat := 440

/-- SR_MIN (R6). -/
def srMin : Int := 1

/-- SR_MAX (R6). -/
def srMax : Int := 192000

/-- ROM_SCALE (R7, R52). -/
def romScale : Nat := 32767

/-- GAIN, the UQ0.16 code of the fixed gain (R7, R113). -/
def gain : Int := 6553

end Sys2Proof.Machine
end

