-- ==== Sys2Proof/Machine/Operands.lean ====
section
/-! DEFINITION. The operand forms. INIT reads its operand as a sample rate and clamps it (R92 of
spec/40_setup.md); BLOCK reads its operand as a count (R121 of spec/41_compute.md). Reading ARG as an
integer, s32, stands in Decode.lean. -/

namespace Sys2Proof.Machine

/-- clamp(v, lo, hi) (R14 of spec/00_scope.md). -/
def clamp (v lo hi : Int) : Int :=
  if v < lo then lo else if v > hi then hi else v

/-- ClampSR: the sample rate brought into [1, 192000] (R92), as a natural number. -/
def clampRate (sr : Int) : Nat :=
  (clamp sr srMin srMax).toNat

/-- The number of samples BLOCK n asks for: none when n ≤ 0 (R121, R123). -/
def blockCount (n : Int) : Nat :=
  n.toNat

end Sys2Proof.Machine
end

