-- ==== Sys2Proof/Machine/Rom.lean ====
section
/-! DEFINITION. The content of the sine ROM and its one access, RomRead (R50 to R57 of
spec/20_memory.md). R53 lets any evaluation of the sine with absolute error below 2.2e-10 stand for
the exact one. Here the sine of an angle in [0, π/2] is its Taylor polynomial of degree 15 with π taken to 20
decimals, evaluated exactly as a fraction of naturals: its error is below 1e-11. Log entry 1. -/

namespace Sys2Proof.Machine

/-- π to 20 decimals, over `piDen`. -/
def piNum : Nat := 314159265358979323846

/-- The denominator of `piNum`. -/
def piDen : Nat := 100000000000000000000

/-- The products 2k·(2k+1) that divide the sine's Taylor terms, from the degree-15 term down. -/
def sineDivisors : List Nat :=
  [14 * 15, 12 * 13, 10 * 11, 8 * 9, 6 * 7, 4 * 5, 2 * 3]

/-- One Horner step: from the fraction n/d to 1 − (x2/d2)·(n/d)/m. -/
def sineHornerStep (x2 d2 : Nat) (acc : Nat × Nat) (m : Nat) : Nat × Nat :=
  (d2 * m * acc.2 - x2 * acc.1, d2 * m * acc.2)

/-- The sine of x/d as a fraction, by its Taylor polynomial of degree 15 in Horner form. -/
def sineFraction (x d : Nat) : Nat × Nat :=
  let t := sineDivisors.foldl (sineHornerStep (x * x) (d * d)) (1, 1)
  (x * t.1, d * t.2)

/-- The integer nearest to a/b, for b > 0 (R14 of spec/00_scope.md). -/
def nearestNat (a b : Nat) : Nat :=
  (2 * a + b) / (2 * b)

/-- nint(32767·sin(2π·r/65536)) for r in [0, 16384], the first quarter of the cycle: the angle is
π·r/32768. -/
def quarterSine (r : Nat) : Nat :=
  let f := sineFraction (piNum * r) (piDen * 32768)
  nearestNat (romScale * f.1) f.2

/-- nint(32767·sin(2π·c/65536)) for c in [0, 65535], from the quarter c lies in. -/
def sineCode (c : Nat) : Int :=
  match c / 16384 with
  | 0 => (quarterSine (c % 16384) : Int)
  | 1 => (quarterSine (16384 - c % 16384) : Int)
  | 2 => -(quarterSine (c % 16384) : Int)
  | _ => -(quarterSine (16384 - c % 16384) : Int)

/-- The builder's counter value for slot i: advance first, so slot 0 has counter 1 (R51, C2, C3). -/
def builderCounter (i : RomIndex) : Nat :=
  (i.toNat + 1) % tableLen

/-- ROM[i], the 16-bit word at index i (R51, R52). -/
def romWord : Rom → RomIndex → RomWord
  | .sineTable, i => BitVec.ofInt 16 (sineCode (builderCounter i))

/-- RomRead(idx): the word at idx as a Q1.15 integer (R13, R57). -/
def romRead (rom : Rom) (idx : RomIndex) : Int :=
  (romWord rom idx).toInt

end Sys2Proof.Machine
end

