-- ==== Sys2Proof/Machine/Ops.lean ====
section
/-! DEFINITION. The named operations over the registers that the commands share. The block takes no
exception and has no return from one (R130, R135, R136 of spec/60_exceptions.md), so no such operation
stands here; what records an error stands in Machine/Flags.lean. -/

namespace Sys2Proof.Machine

/-- One more command accepted: the position in the program advances by one (R21). -/
def advancePosition (s : State) : State :=
  { s with position := s.position + 1 }

/-- The host's list of things to do, replaced. -/
def setInputs (l : List HostInput) (s : State) : State :=
  { s with inputs := l }

/-- Emit(v): v is appended to the output samples (R13). -/
def emitSample (v : Word) (s : State) : State :=
  { s with samples := s.samples ++ [v] }

/-- ComputePinc(srC) = ((440 × 2^32) div srC) mod 2^32 (R94), for srC ≥ 1; a free value at 0, which
R94 leaves out (log entry 8). -/
def computePinc (srC : Nat) : Word :=
  if srC = 0 then Config.pincOfZeroRate else BitVec.ofNat 32 (freq * 2 ^ 32 / srC)

/-- The source's reset(): PHASE and GATE to 0 (R97). -/
def restart (s : State) : State :=
  { s with phase := 0, gate := false }

/-- The part of INIT that writes SRC and INIT_DONE and does the reset() (R93), less the increment. -/
def loadRate (sr : Int) (s : State) : State :=
  { restart s with src := BitVec.ofNat 18 (clampRate sr), initDone := true }

/-- PINC written. -/
def setPinc (v : Word) (s : State) : State :=
  { s with pinc := v }

/-- PINC left unspecified by an edge: the next free value (R34, R161; log entry 6). -/
def scramblePinc (s : State) : State :=
  { s with pinc := Config.freePinc s.freeCount, freeCount := s.freeCount + 1 }

/-- The candidate phase: 0 on the first tick since reset, else PHASE + PINC mod 2^32 (R112). -/
def candidatePhase (s : State) : Word :=
  if s.gate then s.phase + s.pinc else 0

/-- The table index cand[31:16] (R112). -/
def tableIndex (cand : Word) : RomIndex :=
  cand.extractLsb' 16 16

/-- The output sample for a ROM index: the exact product with the gain, in two's complement (R113). -/
def sampleAt (rom : Rom) (idx : RomIndex) : Word :=
  BitVec.ofInt 32 (romRead rom idx * gain)

/-- The sample that a tick in this state emits (R112, R113). -/
def tickSample (s : State) : Word :=
  sampleAt s.rom (tableIndex (candidatePhase s))

/-- The register writes of a tick: PHASE ← cand, GATE ← 1 (R112). -/
def advancePhase (s : State) : State :=
  { s with phase := candidatePhase s, gate := true }

/-- DoTick at the transaction level: the register writes, and the sample emitted (R110 to R113). -/
def doTick (s : State) : State :=
  emitSample (tickSample s) (advancePhase s)

/-- n DoTicks in order (R121). -/
def repeatTicks : Nat → State → State
  | 0, s => s
  | n + 1, s => repeatTicks n (doTick s)

/-- Hardware reset (R150): every register of R20 takes its reset value (R35). The ROM is not reset, and
the host's record is not the block's to clear (log entry 9). -/
def hardwareReset (s : State) : State :=
  { s with
    initDone := false, src := 0, pinc := 0, phase := 0, gate := false, errUninit := false,
    errBadop := false, remain := 0, divCnt := 0, smpValid := false, smpData := 0 }

/-- Nothing is in progress and no sample waits: REMAIN = 0, DIV_CNT = 0 and SMP_VALID = 0 (R169). -/
def quiescent (s : State) : Bool :=
  s.remain == 0 && s.divCnt == 0 && !s.smpValid

end Sys2Proof.Machine
end

