-- ==== Sys2Proof/Machine/Setup.lean ====
section
/-! DEFINITION. The meanings of the setup commands NOP, INIT and RESET (spec/40_setup.md) and the effect
of a reserved word (R76 of spec/30_encoding.md), at the transaction level. -/

namespace Sys2Proof.Machine

open Host (Outcome)

/-- NOP (R91): skip. -/
def execNop (s : State) : Outcome State Fault Refusal :=
  .next s

/-- INIT sr (R93): SRC ← srC, PINC ← ComputePinc(srC), INIT_DONE ← 1, PHASE ← 0, GATE ← 0, in both
states of the oscillator (R96). -/
def execInit (sr : Int) (s : State) : Outcome State Fault Refusal :=
  .next (setPinc (computePinc (clampRate sr)) (loadRate sr s))

/-- RESET (R97): PHASE ← 0, GATE ← 0, in both states of the oscillator (R98). -/
def execReset (s : State) : Outcome State Fault Refusal :=
  .next (restart s)

/-- A reserved word (R76): SetErr(ERR_BADOP) and nothing else. -/
def acceptReserved (s : State) : State :=
  setErrBadop s

end Sys2Proof.Machine
end

