-- ==== Sys2Proof/Machine/Cycle.lean ====
section
/-! DEFINITION. The cycle level (spec/70_reset_and_hazards.md): the handshakes, the busy intervals, the
output register and hardware reset, one rising clock edge at a time (R150, R160 to R164), and the
outputs the block drives (R33, R34, R36). -/

namespace Sys2Proof.Machine

/-- out_free: the output register is empty or is being emptied at this edge (R160). -/
def outFree (p : Pins) (s : State) : Bool :=
  !s.smpValid || p.smpReady

/-- cmd_ready (R160). -/
def cmdReady (p : Pins) (s : State) : Bool :=
  !p.rst && s.remain == 0 && s.divCnt == 0 && outFree p s

/-- cmd_fire: a command is accepted at this edge (R160, R162). -/
def cmdFire (p : Pins) (s : State) : Bool :=
  p.cmdValid && cmdReady p s

/-- out_fire: a sample is transferred to the consumer at this edge (R162). -/
def outFire (p : Pins) (s : State) : Bool :=
  s.smpValid && p.smpReady

/-- blk_tick: a BLOCK in progress performs a tick at this edge (R162). -/
def blkTick (p : Pins) (s : State) : Bool :=
  s.remain != 0 && outFree p s

/-- REMAIN written. -/
def setRemain (v : Word) (s : State) : State :=
  { s with remain := v }

/-- DIV_CNT written. -/
def setDivCnt (v : DivCount) (s : State) : State :=
  { s with divCnt := v }

/-- The output register takes a new sample (R162). -/
def latchSample (v : Word) (s : State) : State :=
  { s with smpData := v, smpValid := true }

/-- The output register is emptied; SMP_DATA keeps the last sample (R30, R162). -/
def releaseSample (s : State) : State :=
  { s with smpValid := false }

/-- The sample in the output register goes to the consumer when out_fire holds (R162). -/
def transferSample (p : Pins) (s : State) : State :=
  if outFire p s then emitSample s.smpData s else s

/-- INIT accepted at an edge (R161): SRC, INIT_DONE, PHASE and GATE at once; DIV_CNT ← INIT_CYCLES − 1;
PINC at once when that is 0, unspecified otherwise. -/
def startInit (cyclesLessOne : DivCount) (sr : Int) (s : State) : State :=
  let t := setDivCnt cyclesLessOne (loadRate sr s)
  if cyclesLessOne = 0 then setPinc (computePinc t.src.toNat) t else scramblePinc t

/-- BLOCK accepted at an edge (R162): REMAIN ← n when it has samples to produce, the two other cases as
at the transaction level (R122, R123). -/
def startBlock (n : Int) (s : State) : State :=
  if n ≤ 0 then s
  else if s.initDone then setRemain (BitVec.ofNat 32 (blockCount n)) s
  else setErrUninit s

/-- The registers after the accepted word, and whether a tick is performed at this edge, with its sample
(R162). -/
def acceptAtEdge (cyclesLessOne : DivCount) (w : CmdWord) (s : State) : State × Option Word :=
  match decode w with
  | .ok .nop => (s, none)
  | .ok (.init sr) => (startInit cyclesLessOne sr s, none)
  | .ok .reset => (restart s, none)
  | .ok .tick => if s.initDone then (advancePhase s, some (tickSample s)) else (setErrUninit s, none)
  | .ok (.block n) => (startBlock n s, none)
  | .error (.reservedOp _) => (acceptReserved s, none)

/-- One tick of a BLOCK in progress: DoTick's register writes and REMAIN − 1 (R28, R162). -/
def blockTick (s : State) : State × Option Word :=
  (setRemain (s.remain - 1) (advancePhase s), some (tickSample s))

/-- What happens to the command side at this edge: an acceptance, a block tick or neither (R162). -/
def commandSide (cyclesLessOne : DivCount) (p : Pins) (s : State) : State × Option Word :=
  if cmdFire p s then acceptAtEdge cyclesLessOne p.cmdWord (advancePosition s)
  else if blkTick p s then blockTick s
  else (s, none)

/-- One busy edge of an INIT (R161): DIV_CNT decrements; where it goes from 1 to 0 PINC is written, and
while it stays above 0 PINC is unspecified. -/
def divStep (s : State) : State :=
  let t := setDivCnt (s.divCnt - 1) s
  if s.divCnt = 1 then setPinc (computePinc s.src.toNat) t else scramblePinc t

/-- The output register after the edge (R162). -/
def outputSide (fired : Bool) (produced : Option Word) (s : State) : State :=
  match produced with
  | some v => latchSample v s
  | none => if fired then releaseSample s else s

/-- One rising edge with rst = 0 (R162). -/
def runEdge (cyclesLessOne : DivCount) (p : Pins) (s : State) : State :=
  let r := commandSide cyclesLessOne p (transferSample p s)
  let t := if s.divCnt = 0 then r.1 else divStep r.1
  outputSide (outFire p s) r.2 t

/-- One rising edge of the clock; rst = 1 overrides everything (R150, R164). The first argument is
INIT_CYCLES − 1. -/
def clockEdge (cyclesLessOne : DivCount) (p : Pins) (s : State) : State :=
  if p.rst then hardwareReset s else runEdge cyclesLessOne p s

/-- The pins of a host that offers no command and of a consumer that is ready. -/
def idlePins : Pins where
  rst := false
  cmdValid := false
  cmdWord := 0
  smpReady := true

/-- Everything the block drives in a cycle (R36). -/
structure Outputs where
  /-- cmd_ready (R160). -/
  cmdReady : Bool
  /-- smp_valid (R30). -/
  smpValid : Bool
  /-- smp_data (R30). -/
  smpData : Word
  /-- st_status (R33). -/
  stStatus : Word
  /-- st_phase (R34). -/
  stPhase : Word
  /-- st_pinc (R34). -/
  stPinc : Word
  /-- st_src (R34). -/
  stSrc : RateReg
  /-- st_remain (R34). -/
  stRemain : Word
  deriving DecidableEq, Repr

/-- The outputs, combinational in the state and the input pins (R33, R34, R36, R160). -/
def outputs (p : Pins) (s : State) : Outputs where
  cmdReady := Sys2Proof.Machine.cmdReady p s
  smpValid := s.smpValid
  smpData := s.smpData
  stStatus := statusWord s
  stPhase := s.phase
  stPinc := s.pinc
  stSrc := s.src
  stRemain := s.remain

/-- The edges of a schedule, in order. -/
def runEdges (cyclesLessOne : DivCount) : List Pins → State → State
  | [], s => s
  | p :: ps, s => runEdges cyclesLessOne ps (clockEdge cyclesLessOne p s)

end Sys2Proof.Machine
end

