-- ==== Sys2Proof/Machine/Compute.lean ====
section
/-! DEFINITION. The meanings of the compute commands TICK and BLOCK (spec/41_compute.md), at the
transaction level. -/

namespace Sys2Proof.Machine

open Host (Outcome)

/-- TICK (R114): one DoTick when Ready, else SetErr(ERR_UNINIT) and no sample. -/
def execTick (s : State) : Outcome State Fault Refusal :=
  .next (if s.initDone then doTick s else setErrUninit s)

/-- BLOCK n (R121): nothing for n ≤ 0 (R123), SetErr(ERR_UNINIT) when Uninitialized (R122), else n
DoTicks in order. -/
def execBlock (n : Int) (s : State) : Outcome State Fault Refusal :=
  .next
    (if n ≤ 0 then s
    else if s.initDone then repeatTicks (blockCount n) s
    else setErrUninit s)

end Sys2Proof.Machine
end

