-- ==== Sys2Proof/Machine/Dispatch.lean ====
section
/-! DEFINITION. The dispatch of the five commands to their meanings, one arm per constructor. -/

namespace Sys2Proof.Machine

-- A command executes as one indivisible transaction (R90 of spec/40_setup.md).
def exec (i : Instr) (s : State) : Host.Outcome State Fault Refusal :=
  match i with
  | .nop => Sys2Proof.Machine.execNop s
  | .init sr => Sys2Proof.Machine.execInit sr s
  | .reset => Sys2Proof.Machine.execReset s
  | .tick => Sys2Proof.Machine.execTick s
  | .block n => Sys2Proof.Machine.execBlock n s

end Sys2Proof.Machine
end

