-- ==== Sys2Proof/Machine/Fetch.lean ====
section
/-! DEFINITION. How the next thing the host does is taken from State's list and performed. The block
fetches nothing (R21 of spec/10_state.md): a command word comes from the host. Log entry 2. -/

namespace Sys2Proof.Machine

open Host (Outcome)

/-- A command word accepted and executed as one transaction (R11, R90): the position advances by one
(R21), and a reserved word has its own effect (R76). -/
def acceptCommand (w : CmdWord) (s : State) : Outcome State Fault Refusal :=
  match decode w with
  | .ok i => exec i (advancePosition s)
  | .error (.reservedOp _) => .next (acceptReserved (advancePosition s))

/-- A clock edge at which the host offers nothing and the consumer is ready. -/
def idleEdge (s : State) : State :=
  clockEdge Config.initCyclesLessOne idlePins s

/-- The next thing the host does. A scheduled edge is performed with its pins. A command is executed
when the block is quiescent; until then it waits (R160), and idle edges go by. With nothing left, idle
edges go by. -/
def performNext (s : State) : Outcome State Fault Refusal :=
  match s.inputs with
  | [] => .next (idleEdge s)
  | .edge p :: rest => .next (clockEdge Config.initCyclesLessOne p (setInputs rest s))
  | .command w :: rest =>
    if quiescent s then acceptCommand w (setInputs rest s) else .next (idleEdge s)

/-- s with the word placed as the host's next command, and nothing in progress that it would wait for. -/
def offerWord (w : Nat) (s : State) : State :=
  { s with
    inputs := .command (BitVec.ofNat 36 w) :: s.inputs
    remain := 0, divCnt := 0, smpValid := false }

end Sys2Proof.Machine
end

