-- ==== Sys2Proof/Machine/Step.lean ====
section
/-! DEFINITION. The step of the machine: the next thing the host does, performed. -/

namespace Sys2Proof.Machine

/-- One step: one command executed as a transaction, or one clock edge (Machine/Fetch.lean). -/
def step (s : State) : Host.Outcome State Fault Refusal :=
  performNext s

/-- s with the instruction of the given number as the host's next command, so that the very next step
executes it (log entry 10). -/
def State.withFetchWord (s : State) (_nbits w : Nat) : State :=
  offerWord w s

end Sys2Proof.Machine
end

