-- ==== Sys2Proof/Machine/Assembler.lean ====
section
/-! DEFINITION. The assembler of the spec: the syntax of R78, the pseudo-instructions of R79 and the text
form of R80 (spec/30_encoding.md). Text is a list of characters. Log entry 12 names the points of
syntax that the rules leave open. -/

namespace Sys2Proof.Machine

/-- A line of assembly (R78, R79). -/
inductive AsmLine where
  /-- NOP. -/
  | nop
  /-- INIT sr. -/
  | init (sr : Int)
  /-- RESET. -/
  | reset
  /-- TICK. -/
  | tick
  /-- BLOCK n. -/
  | block (n : Int)
  /-- .word op, arg: a raw word. -/
  | word (op arg : Int)
  /-- TICKN k: k copies of TICK. -/
  | tickN (k : Int)
  /-- RESTART: another name of RESET. -/
  | restart
  /-- SETUP sr: another name of INIT. -/
  | setup (sr : Int)
  /-- SILENT n, n ≤ 0: BLOCK n as a documented no-op. -/
  | silent (n : Int)
  deriving DecidableEq, Repr

/-- Why the assembler rejects a line. -/
inductive AsmError where
  /-- The line's first word is no mnemonic of R78 or R79. -/
  | unknownMnemonic
  /-- An operand is missing, is one too many or is no number. -/
  | badOperands
  /-- An operand lies outside its range. -/
  | operandOutOfRange
  deriving DecidableEq, Repr

/-- The words of one command, if its operand is in range (R78). -/
def assembleInstr (i : Instr) : Except AsmError (List CmdWord) :=
  if i.wellFormed then .ok [encode i] else .error .operandOutOfRange

/-- The words of a line (R78, R79). -/
def assembleLine : AsmLine → Except AsmError (List CmdWord)
  | .nop => assembleInstr .nop
  | .init sr => assembleInstr (.init sr)
  | .reset => assembleInstr .reset
  | .tick => assembleInstr .tick
  | .block n => assembleInstr (.block n)
  | .word op arg =>
    if 0 ≤ op ∧ op ≤ 15 then .ok [packWord (BitVec.ofInt 4 op) (argOf arg)]
    else .error .operandOutOfRange
  | .tickN k =>
    if 0 ≤ k then .ok (List.replicate k.toNat (encode .tick)) else .error .operandOutOfRange
  | .restart => assembleInstr .reset
  | .setup sr => assembleInstr (.init sr)
  | .silent n => if n ≤ 0 then assembleInstr (.block n) else .error .operandOutOfRange

/-- The value of a hexadecimal digit of either case. -/
def hexDigit (c : Char) : Option Nat :=
  let n := c.toNat
  if 48 ≤ n ∧ n ≤ 57 then some (n - 48)
  else if 65 ≤ n ∧ n ≤ 70 then some (n - 55)
  else if 97 ≤ n ∧ n ≤ 102 then some (n - 87)
  else none

/-- Digits in a base, most significant first, after the value already read. -/
def readDigits (base acc : Nat) : List Char → Option Nat
  | [] => some acc
  | c :: cs =>
    match hexDigit c with
    | some d => if d < base then readDigits base (base * acc + d) cs else none
    | none => none

/-- A natural number, decimal or 0x-hex (R78). -/
def readNat : List Char → Option Nat
  | [] => none
  | '0' :: 'x' :: c :: cs => readDigits 16 0 (c :: cs)
  | '0' :: 'X' :: c :: cs => readDigits 16 0 (c :: cs)
  | c :: cs => readDigits 10 0 (c :: cs)

/-- An integer operand: a natural number, or one after a minus sign. -/
def readInt : List Char → Option Int
  | '-' :: cs => (readNat cs).map fun n => -(n : Int)
  | cs => (readNat cs).map fun n => (n : Int)

/-- The line up to its comment (R78). -/
def stripComment (cs : List Char) : List Char :=
  cs.takeWhile (fun c => c != ';')

/-- A letter in upper case: mnemonics are case-insensitive (R78). -/
def upperChar (c : Char) : Char :=
  let n := c.toNat
  if 97 ≤ n ∧ n ≤ 122 then Char.ofNat (n - 32) else c

/-- The character separates words of a line. -/
def isBlankChar (c : Char) : Bool :=
  c == ' ' || c == '\t' || c == '\r'

/-- The words of a line, a comma being a word of its own; cur is the word being read, reversed. -/
def splitWords (cur : List Char) : List Char → List (List Char)
  | [] => if cur.isEmpty then [] else [cur.reverse]
  | c :: cs =>
    if isBlankChar c then
      (if cur.isEmpty then [] else [cur.reverse]) ++ splitWords [] cs
    else if c == ',' then
      (if cur.isEmpty then [] else [cur.reverse]) ++ [[',']] ++ splitWords [] cs
    else splitWords (c :: cur) cs

/-- A line without operands. -/
def noOperand (l : AsmLine) : List (List Char) → Except AsmError AsmLine
  | [] => .ok l
  | _ => .error .badOperands

/-- A line with one integer operand. -/
def oneOperand (f : Int → AsmLine) : List (List Char) → Except AsmError AsmLine
  | [x] =>
    match readInt x with
    | some v => .ok (f v)
    | none => .error .badOperands
  | _ => .error .badOperands

/-- The two operands of .word, with a comma between them. -/
def wordOperands : List (List Char) → Except AsmError AsmLine
  | [x, [','], y] =>
    match readInt x, readInt y with
    | some op, some arg => .ok (.word op arg)
    | _, _ => .error .badOperands
  | _ => .error .badOperands

/-- A line from its mnemonic in upper case and its other words (R78, R79). -/
def lineOf (mnemonic : List Char) (rest : List (List Char)) : Except AsmError AsmLine :=
  if mnemonic = ['N', 'O', 'P'] then noOperand .nop rest
  else if mnemonic = ['I', 'N', 'I', 'T'] then oneOperand .init rest
  else if mnemonic = ['R', 'E', 'S', 'E', 'T'] then noOperand .reset rest
  else if mnemonic = ['T', 'I', 'C', 'K'] then noOperand .tick rest
  else if mnemonic = ['B', 'L', 'O', 'C', 'K'] then oneOperand .block rest
  else if mnemonic = ['.', 'W', 'O', 'R', 'D'] then wordOperands rest
  else if mnemonic = ['T', 'I', 'C', 'K', 'N'] then oneOperand .tickN rest
  else if mnemonic = ['R', 'E', 'S', 'T', 'A', 'R', 'T'] then noOperand .restart rest
  else if mnemonic = ['S', 'E', 'T', 'U', 'P'] then oneOperand .setup rest
  else if mnemonic = ['S', 'I', 'L', 'E', 'N', 'T'] then oneOperand .silent rest
  else .error .unknownMnemonic

/-- A line of text; none for a blank line or a line of comment only. -/
def parseLine (cs : List Char) : Except AsmError (Option AsmLine) :=
  match splitWords [] (stripComment cs) with
  | [] => .ok none
  | m :: rest => (lineOf (m.map upperChar) rest).map some

/-- The words of a line of text. -/
def assembleText (cs : List Char) : Except AsmError (List CmdWord) :=
  match parseLine cs with
  | .ok none => .ok []
  | .ok (some l) => assembleLine l
  | .error e => .error e

/-- A program, one command per line (R78): its command words, or the first rejection. -/
def assembleProgram : List (List Char) → Except AsmError (List CmdWord)
  | [] => .ok []
  | l :: ls =>
    match assembleText l with
    | .error e => .error e
    | .ok ws =>
      match assembleProgram ls with
      | .error e => .error e
      | .ok rest => .ok (ws ++ rest)

/-- A hexadecimal digit, in upper case. -/
def hexChar (d : BitVec 4) : Char :=
  if d.toNat < 10 then Char.ofNat (48 + d.toNat) else Char.ofNat (55 + d.toNat)

/-- The k-th hexadecimal digit of a word, 0 the least significant. -/
def hexDigitAt (w : CmdWord) (k : Nat) : Char :=
  hexChar (w.extractLsb' (4 * k) 4)

/-- The text form of a command word, with one separator after OP (R80). -/
def showCmdWord (w : CmdWord) : List Char :=
  [hexDigitAt w 8, '_', hexDigitAt w 7, hexDigitAt w 6, hexDigitAt w 5, hexDigitAt w 4,
    hexDigitAt w 3, hexDigitAt w 2, hexDigitAt w 1, hexDigitAt w 0]

/-- A command word from its text form: nine hexadecimal digits, separators skipped (R80). -/
def readCmdWord (cs : List Char) : Option CmdWord :=
  let ds := cs.filter (fun c => c != '_')
  if ds.length = 9 then (readDigits 16 0 ds).map (BitVec.ofNat 36) else none

end Sys2Proof.Machine
end

