-- ==== Sys2Proof/Machine/Run.lean ====
section
/-! DEFINITION. Runs (R169 of spec/70_reset_and_hazards.md): the run of a finite command sequence, the
first edge at which it ends, its final registers, its output and its faults, and how a reset edge makes
two runs of one. Log entry 15 names what R169 leaves open. -/

namespace Sys2Proof.Machine

/-- The state after one step; every step goes on. -/
def nextState (s : State) : State :=
  match step s with
  | .next t => t
  | .fault _ => s
  | .refused _ => s

/-- The command word that the step from this state accepts, if any (R160, and log entry 2 for a command
run as a transaction). -/
def acceptedByStep (s : State) : Option CmdWord :=
  match s.inputs with
  | [] => none
  | .edge p :: _ => if cmdFire p s then some p.cmdWord else none
  | .command w :: _ => if quiescent s then some w else none

/-- The step from this state is a clock edge with rst = 1 (R150). -/
def resetStep (s : State) : Bool :=
  match s.inputs with
  | [] => false
  | .edge p :: _ => p.rst
  | .command _ :: _ => false

/-- The four conditions of R169: every command of the sequence has been accepted (left holds those that
have not), and REMAIN = 0, DIV_CNT = 0 and SMP_VALID = 0. -/
def runEnded (left : List CmdWord) (s : State) : Bool :=
  left.isEmpty && quiescent s

/-- The end of the run of a command sequence, looked for in at most n steps: the state after the first
edge at which R169's conditions hold, whatever the host still has to do after it. left holds the commands
not yet accepted; begun says that one has been. There is none when the sequence is not finished in
n steps, when another word is accepted in its place, or when a reset edge after the first command cuts
the run off (R169: such a run is two runs). DESIGN CHOICE, log entry 15: these last two, and that the
state the run starts in counts. -/
def endOfRun : Nat → Bool → List CmdWord → State → Option State
  | 0, _, left, s => if runEnded left s then some s else none
  | n + 1, begun, left, s =>
    if runEnded left s then some s
    else if begun && resetStep s then none
    else
      match acceptedByStep s, left with
      | none, l => endOfRun n begun l (nextState s)
      | some w, v :: vs => if v = w then endOfRun n true vs (nextState s) else none
      | some _, [] => none

/-- What the transaction level sees of a state (R11, R20, R163): its seven registers and the output. -/
structure TransactionView where
  /-- INIT_DONE. -/
  initDone : Bool
  /-- SRC. -/
  src : RateReg
  /-- PINC. -/
  pinc : Word
  /-- PHASE. -/
  phase : Word
  /-- GATE. -/
  gate : Bool
  /-- ERR_UNINIT. -/
  errUninit : Bool
  /-- ERR_BADOP. -/
  errBadop : Bool
  /-- The output samples. -/
  samples : List Word
  deriving DecidableEq, Repr

/-- The transaction level's view of a state. -/
def State.transactionView (s : State) : TransactionView where
  initDone := s.initDone
  src := s.src
  pinc := s.pinc
  phase := s.phase
  gate := s.gate
  errUninit := s.errUninit
  errBadop := s.errBadop
  samples := s.samples

/-- What a run that has ended leaves (R169). -/
structure RunResult where
  /-- The final state, the transaction registers at the end, with the samples transferred during the run
  as its output. -/
  final : TransactionView
  /-- The faults of the run: the error flags that are 1 at its end (R131). -/
  faults : List Fault
  deriving DecidableEq, Repr

/-- The result of the run of a command sequence that starts in this state, if it ends within n steps. -/
def runResult (n : Nat) (sequence : List CmdWord) (start : State) : Option RunResult :=
  (endOfRun n false sequence start).map fun t =>
    { final := { t.transactionView with samples := t.samples.drop start.samples.length }
      faults := runFaults t }

/-- The words accepted in n steps before a reset edge that follows one of them: the sequence of the run
that starts here, where the host names no other (DESIGN CHOICE, log entry 15). -/
def sequenceOfRun : Nat → Bool → State → List CmdWord
  | 0, _, _ => []
  | n + 1, begun, s =>
    if begun && resetStep s then []
    else
      match acceptedByStep s with
      | some w => w :: sequenceOfRun n true (nextState s)
      | none => sequenceOfRun n begun (nextState s)

/-- The states in which later runs start, within n steps: after each reset edge that follows a command of
the run before it (R169: such a run is two runs). Reset edges before the first command belong to the run
itself (DEDUCED, log entry 15). -/
def runStarts : Nat → Bool → State → List State
  | 0, _, _ => []
  | n + 1, begun, s =>
    if begun && resetStep s then nextState s :: runStarts n false (nextState s)
    else runStarts n (begun || (acceptedByStep s).isSome) (nextState s)

/-- The runs that start within n steps, in order, each followed for at most n steps: its sequence, and its
result if it ends. -/
def runsWithin (n : Nat) (s : State) : List (List CmdWord × Option RunResult) :=
  (s :: runStarts n false s).map fun u =>
    (sequenceOfRun n false u, runResult n (sequenceOfRun n false u) u)

end Sys2Proof.Machine
end

