-- ==== Sys2Proof/Safety.lean ====
section
/-! DEFINITION. What counts as a safe run and the terms that statements use: the invariants of R31, the
amplitude bound of R116, and the terms that link the two levels (R163). The end of a run (R169) stands in
Machine/Run.lean. -/

namespace Sys2Proof.Machine

/-- A legal clamped rate (R26). -/
abbrev legalRate (r : RateReg) : Prop :=
  1 ≤ r.toNat ∧ r.toNat ≤ 192000

/-- R31's four items, with what a busy INIT adds: while DIV_CNT ≠ 0 the block is Ready, and SRC holds a
legal rate whenever it is Ready. -/
structure State.Consistent (s : State) : Prop where
  /-- R31 item 1. -/
  uninitialized : s.initDone = false → s.src = 0 ∧ s.pinc = 0 ∧ s.phase = 0 ∧ s.gate = false
  /-- R31 item 2, its half about SRC. -/
  rate : s.initDone = true → legalRate s.src
  /-- R31 item 2, its half about PINC. -/
  increment : s.initDone = true → s.divCnt = 0 →
    s.pinc = BitVec.ofNat 32 (440 * 2 ^ 32 / s.src.toNat)
  /-- R31 item 3. -/
  gateClear : s.gate = false → s.phase = 0
  /-- R31 item 4. -/
  blockBusy : s.remain ≠ 0 → s.initDone = true ∧ s.divCnt = 0
  /-- R161: only an accepted INIT makes DIV_CNT non-zero, and it sets INIT_DONE. -/
  initBusy : s.divCnt ≠ 0 → s.initDone = true

/-- A sample within the amplitude bound of R116. -/
abbrev sampleInBound (v : Word) : Prop :=
  -214722151 ≤ v.toInt ∧ v.toInt ≤ 214722151

/-- Every sample transferred, and the one in the output register, is within the bound (R116). -/
abbrev State.AmplitudeBounded (s : State) : Prop :=
  (∀ v ∈ s.samples, sampleInBound v) ∧ sampleInBound s.smpData

/-- A sticky flag of the first state is set in the second too (R27, R131). -/
abbrev errorsKept (s t : State) : Prop :=
  (s.errUninit = true → t.errUninit = true) ∧ (s.errBadop = true → t.errBadop = true)

/-- The state with the work in progress carried to its end, as the transaction level counts it: the
waiting sample delivered, the increment of a busy INIT written, the ticks of a BLOCK performed. -/
def finishPending (s : State) : State :=
  let delivered := if s.smpValid then emitSample s.smpData s else s
  let divided := if s.divCnt = 0 then delivered else setPinc (computePinc s.src.toNat) delivered
  repeatTicks s.remain.toNat divided

/-- A command word at the transaction level, as a change of the state (R11, R76). -/
def transact (w : CmdWord) (s : State) : State :=
  match acceptCommand w s with
  | .next t => t
  | .fault _ => s
  | .refused _ => s

/-- A sequence of command words at the transaction level, in order (R62). -/
def transactAll : List CmdWord → State → State
  | [], s => s
  | w :: ws, s => transactAll ws (transact w s)

/-- The command words accepted during a schedule of edges, in acceptance order (R160, R163). -/
def acceptedWords (cyclesLessOne : DivCount) : List Pins → State → List CmdWord
  | [], _ => []
  | p :: ps, s =>
    (if cmdFire p s then [p.cmdWord] else []) ++
      acceptedWords cyclesLessOne ps (clockEdge cyclesLessOne p s)

/-- Everything but the PHASE, GATE, error flags and output that the compute commands write is the same:
their frame (R110, R114, R121). -/
abbrev computeFrame (s t : State) : Prop :=
  t.initDone = s.initDone ∧ t.src = s.src ∧ t.pinc = s.pinc ∧ t.errBadop = s.errBadop ∧
    t.remain = s.remain ∧ t.divCnt = s.divCnt ∧ t.smpValid = s.smpValid ∧ t.smpData = s.smpData ∧
    t.rom = s.rom ∧ t.inputs = s.inputs ∧ t.position = s.position ∧ t.freeCount = s.freeCount

/-- The registers of the cycle level, the ROM and the host's record are the same (R90). -/
abbrev outsideFrame (s t : State) : Prop :=
  t.remain = s.remain ∧ t.divCnt = s.divCnt ∧ t.smpValid = s.smpValid ∧ t.smpData = s.smpData ∧
    t.rom = s.rom ∧ t.inputs = s.inputs ∧ t.position = s.position ∧ t.samples = s.samples ∧
    t.freeCount = s.freeCount

end Sys2Proof.Machine
end

