-- ==== Sys2Proof/Certificates/Slice0/Obligations.lean ====
section
/-! DEFINITION. The statements about the GeoWars NCO that are to be proved, each from the numbered rules
of spec/. -/

open Sys2Proof Sys2Proof.Machine Host

/-! ### Encoding (spec/30_encoding.md) -/

/-- R70, R71, R72, R78: decoding the word of a well-formed command gives the command back. -/
def Obligations.DecodeOfEncodeIsCommand : Prop :=
  ∀ i : Instr, i.wellFormed = true → decode (encode i) = .ok i

/-- R70, R71, R72, R75: a word that decodes to a command carries exactly the command's bits: it is the
command's own word where ARG is read, and has the command's word's OP where ARG is ignored; the decoded
command is well formed. -/
def Obligations.EncodeOfDecodeIsWord : Prop :=
  ∀ (w : CmdWord) (i : Instr), decode w = .ok i →
    i.wellFormed = true ∧
      (match i with
        | .init _ => encode i = w
        | .block _ => encode i = w
        | .nop => encode i = w &&& opMask
        | .reset => encode i = w &&& opMask
        | .tick => encode i = w &&& opMask)

/-- R73: every word whose bits under the mask equal a row's match is that row's command, and the words
with OP in 5 to 15 are the reserved ones. -/
def Obligations.DecodeFollowsMatchAndMask : Prop :=
  ∀ w : CmdWord,
    (decode w = .ok .nop ↔ w &&& opMask = 0x000000000) ∧
    ((∃ sr, decode w = .ok (.init sr)) ↔ w &&& opMask = 0x100000000) ∧
    (decode w = .ok .reset ↔ w &&& opMask = 0x200000000) ∧
    (decode w = .ok .tick ↔ w &&& opMask = 0x300000000) ∧
    ((∃ n, decode w = .ok (.block n)) ↔ w &&& opMask = 0x400000000) ∧
    ((∃ op, decode w = .error (.reservedOp op)) ↔
      5 ≤ (w.extractLsb' 32 4).toNat ∧ (w.extractLsb' 32 4).toNat ≤ 15)

/-- R75: NOP, RESET and TICK words with any ARG behave, at both levels, exactly as the word with ARG = 0,
which is the word an assembler emits; NOP and RESET with any ARG set no error flag, and TICK sets
ERR_UNINIT only where the block is Uninitialized. -/
def Obligations.IgnoredArgumentHasNoEffect : Prop :=
  ∀ (op : BitVec 4) (a : Word) (k : DivCount) (s : State), op = 0 ∨ op = 2 ∨ op = 3 →
    acceptCommand (packWord op a) s = acceptCommand (packWord op 0) s ∧
    acceptAtEdge k (packWord op a) s = acceptAtEdge k (packWord op 0) s ∧
    (encode .nop = packWord 0 0 ∧ encode .reset = packWord 2 0 ∧ encode .tick = packWord 3 0) ∧
    ∃ t, acceptCommand (packWord op a) s = .next t ∧ t.errBadop = s.errBadop ∧
      (s.initDone = true ∨ op ≠ 3 → t.errUninit = s.errUninit)

/-- R70, R71, R72: words written out from the spec's encoding decode to the commands they stand for. -/
def Obligations.SpecWordsDecode : Prop :=
  decode 0x000000000 = .ok .nop ∧
  decode 0x0DEADBEEF = .ok .nop ∧
  decode 0x10000AC44 = .ok (.init 44100) ∧
  decode 0x1FFFFFFFB = .ok (.init (-5)) ∧
  decode 0x200000000 = .ok .reset ∧
  decode 0x300000001 = .ok .tick ∧
  decode 0x400000004 = .ok (.block 4) ∧
  decode 0x480000000 = .ok (.block (-2147483648)) ∧
  decode 0x47FFFFFFF = .ok (.block 2147483647) ∧
  decode 0x500000000 = .error (.reservedOp 5)

/-- R78: the assembler accepts INIT and BLOCK exactly when the operand is a 32-bit integer, NOP, RESET and
TICK exactly when no operand stands after them, and .word exactly when op lies in 0 to 15. What it emits
is one word: OP·2^32 + operand mod 2^32, with ARG = 0 for NOP, RESET and TICK. The word of a command
decodes to the command. (That the arg of .word may be any integer is log entry 12.) -/
def Obligations.AssemblerEmitsTheCommand : Prop :=
  (assembleLine .nop = .ok [0x000000000] ∧ assembleLine .reset = .ok [0x200000000] ∧
    assembleLine .tick = .ok [0x300000000]) ∧
  (∀ v : Int, -2147483648 ≤ v → v ≤ 2147483647 →
    assembleLine (.init v) = .ok [BitVec.ofInt 36 (1 * 2 ^ 32 + v % 2 ^ 32)] ∧
    decode (BitVec.ofInt 36 (1 * 2 ^ 32 + v % 2 ^ 32)) = .ok (.init v) ∧
    assembleLine (.block v) = .ok [BitVec.ofInt 36 (4 * 2 ^ 32 + v % 2 ^ 32)] ∧
    decode (BitVec.ofInt 36 (4 * 2 ^ 32 + v % 2 ^ 32)) = .ok (.block v)) ∧
  (∀ v : Int, v < -2147483648 ∨ 2147483647 < v →
    assembleLine (.init v) = .error .operandOutOfRange ∧
    assembleLine (.block v) = .error .operandOutOfRange) ∧
  (∀ op arg : Int, 0 ≤ op → op ≤ 15 →
    assembleLine (.word op arg) = .ok [BitVec.ofInt 36 (op * 2 ^ 32 + arg % 2 ^ 32)]) ∧
  (∀ op arg : Int, op < 0 ∨ 15 < op → assembleLine (.word op arg) = .error .operandOutOfRange) ∧
  (lineOf ['N', 'O', 'P'] [] = .ok .nop ∧ lineOf ['R', 'E', 'S', 'E', 'T'] [] = .ok .reset ∧
    lineOf ['T', 'I', 'C', 'K'] [] = .ok .tick) ∧
  ∀ (x : List Char) (xs : List (List Char)),
    lineOf ['N', 'O', 'P'] (x :: xs) = .error .badOperands ∧
    lineOf ['R', 'E', 'S', 'E', 'T'] (x :: xs) = .error .badOperands ∧
    lineOf ['T', 'I', 'C', 'K'] (x :: xs) = .error .badOperands

/-- R80: reading the nine-digit text form of a word gives the word back. -/
def Obligations.TextFormReadsBack : Prop :=
  ∀ w : CmdWord, readCmdWord (showCmdWord w) = some w

/-! ### The step -/

/-- R11, R21, R160: when the host's next command decodes to a command and the block is quiescent, a step
is that command's exec, the position having advanced by one and the word being taken from the host's
list. (The list and the two kinds of input are the model's own: log entry 2.) -/
def Obligations.StepRunsDecodedCommand : Prop :=
  ∀ (s : State) (w : CmdWord) (rest : List HostInput) (i : Instr),
    s.inputs = .command w :: rest → s.remain = 0 → s.divCnt = 0 → s.smpValid = false →
    decode w = .ok i →
    step s = exec i { s with inputs := rest, position := s.position + 1 }

/-- R76: a reserved word sets ERR_BADOP and does nothing else, at both levels, and a run that ends so is
faulted. -/
def Obligations.ReservedWordSetsBadopOnly : Prop :=
  ∀ (w : CmdWord) (k : DivCount) (s : State), 5 ≤ (w.extractLsb' 32 4).toNat →
    acceptCommand w s = .next { s with position := s.position + 1, errBadop := true } ∧
    acceptAtEdge k w s = ({ s with errBadop := true }, none) ∧
    Fault.errBadop ∈ runFaults { s with errBadop := true }

/-- The model's scheduling, log entry 2: a scheduled edge is performed with its pins; a command that
finds work in progress waits while an idle edge goes by; with nothing left, idle edges go by. -/
def Obligations.StepPerformsScheduledEdge : Prop :=
  ∀ (s : State) (rest : List HostInput),
    (∀ p, s.inputs = .edge p :: rest →
      step s = .next (clockEdge Config.initCyclesLessOne p { s with inputs := rest })) ∧
    (∀ w, s.inputs = .command w :: rest → (s.remain ≠ 0 ∨ s.divCnt ≠ 0 ∨ s.smpValid = true) →
      step s = .next (clockEdge Config.initCyclesLessOne ⟨false, false, 0, true⟩ s)) ∧
    (s.inputs = [] →
      step s = .next (clockEdge Config.initCyclesLessOne ⟨false, false, 0, true⟩ s))

/-- Log entry 10: the offered word is the very next thing a step executes, in a quiescent state with
nothing else changed. -/
def Obligations.OfferedWordRunsNext : Prop :=
  ∀ (s : State) (nbits w : Nat), s.remain = 0 → s.divCnt = 0 → s.smpValid = false →
    step (s.withFetchWord nbits w) = acceptCommand (BitVec.ofNat 36 w) s

/-- R130: no step ends in a fault or a refusal. -/
def Obligations.EveryStepGoesOn : Prop :=
  ∀ s : State, ∃ t, step s = .next t

/-! ### The setup commands (spec/40_setup.md) -/

/-- R91: NOP writes nothing, in every state, for every word with OP = 0. -/
def Obligations.NopChangesNothing : Prop :=
  (∀ s : State, exec .nop s = .next s) ∧ ∀ a : Word, decode (packWord 0 a) = .ok .nop

/-- R92, R93: INIT writes the clamped rate, the increment, INIT_DONE, PHASE and GATE, and nothing else;
the increment is 0 exactly when the clamped rate divides 440. The third clause is the rule's example. -/
def Obligations.InitLoadsRateAndIncrement : Prop :=
  (∀ (sr : Int) (s : State),
    exec (.init sr) s = .next
      { s with
        src := BitVec.ofNat 18 (max 1 (min sr 192000)).toNat
        pinc := BitVec.ofNat 32 (440 * 2 ^ 32 / (max 1 (min sr 192000)).toNat)
        initDone := true
        phase := 0
        gate := false } ∧
    (BitVec.ofNat 32 (440 * 2 ^ 32 / (max 1 (min sr 192000)).toNat) = 0 ↔
      (max 1 (min sr 192000)).toNat ∣ 440)) ∧
  (∀ a : Word, decode (packWord 1 a) = .ok (.init a.toInt)) ∧
  (∀ s t : State, exec (.init 44100) s = .next t →
    t.src = 44100 ∧ t.pinc = 0x028DDFB9 ∧ t.phase = 0 ∧ t.gate = false ∧ t.initDone = true)

/-- R95: the increments of the rule's table, and that the increment is 0 exactly for the divisors of
440, which are the sixteen listed. -/
def Obligations.IncrementTable : Prop :=
  (∀ e ∈ [(3, 2863311530), (7, 3681400539), (300, 2004318071), (439, 9783524), (441, 4285228141),
      (879, 2149926746), (880, 2147483648), (881, 2145046095), (1000, 1889785610), (8000, 236223201),
      (11025, 171409125), (16000, 118111600), (22050, 85704562), (32000, 59055800), (44100, 42852281),
      (48000, 39370533), (88200, 21426140), (96000, 19685266), (176400, 10713070), (191999, 9842684),
      (192000, 9842633)], (computePinc e.1).toNat = e.2) ∧
  ∀ c : Nat, 1 ≤ c → c ≤ 192000 →
    (computePinc c = 0 ↔ c ∣ 440) ∧
    (c ∣ 440 ↔ c ∈ [1, 2, 4, 5, 8, 10, 11, 20, 22, 40, 44, 55, 88, 110, 220, 440])

/-- R94: ComputePinc truncates the fraction of 440/srC to 32 bits: the scaled fraction exceeds the
increment by less than one unit. -/
def Obligations.IncrementTruncatesFraction : Prop :=
  ∀ c : Nat, 1 ≤ c → c ≤ 192000 →
    computePinc c = BitVec.ofNat 32 (440 * 2 ^ 32 / c) ∧
    (computePinc c).toNat = 440 * 2 ^ 32 / c % 2 ^ 32 ∧
    (computePinc c).toNat * c ≤ 440 % c * 2 ^ 32 ∧
    440 % c * 2 ^ 32 < ((computePinc c).toNat + 1) * c

/-- R97: RESET writes PHASE and GATE and nothing else; a second RESET or a RESET after INIT changes
nothing; the next tick in Ready emits the phase-0 sample 19659. -/
def Obligations.ResetClearsPhaseAndGate : Prop :=
  (∀ s : State, exec .reset s = .next { s with phase := 0, gate := false }) ∧
  (∀ a : Word, decode (packWord 2 a) = .ok .reset) ∧
  (∀ s t : State, exec .reset s = .next t → exec .reset t = .next t) ∧
  (∀ (sr : Int) (s t : State), exec (.init sr) s = .next t → exec .reset t = .next t) ∧
  (∀ s t : State, s.initDone = true → exec .reset s = .next t →
    exec .tick t = .next { t with gate := true, samples := s.samples ++ [19659] })

/-- R98: RESET while Uninitialized changes nothing, in a state that meets the invariants of R31. -/
def Obligations.ResetWhileUninitializedChangesNothing : Prop :=
  ∀ s : State, s.Consistent → s.initDone = false → exec .reset s = .next s

/-- R90: every setup command goes on, and leaves the error flags, the cycle-level registers, the ROM and
the output as they were; NOP and RESET leave SRC, PINC and INIT_DONE too, and NOP leaves PHASE and
GATE. -/
def Obligations.SetupCommandsFrame : Prop :=
  ∀ (i : Instr) (s : State), (i = .nop ∨ i = .reset ∨ ∃ sr, i = .init sr) →
    ∃ t, exec i s = .next t ∧ outsideFrame s t ∧ t.errUninit = s.errUninit ∧
      t.errBadop = s.errBadop ∧ (∀ idx, romRead t.rom idx = romRead s.rom idx) ∧
      ((i = .nop ∨ i = .reset) → t.src = s.src ∧ t.pinc = s.pinc ∧ t.initDone = s.initDone) ∧
      (i = .nop → t.phase = s.phase ∧ t.gate = s.gate)

/-- R99: any two runs of the same command words after a RESET at the same PINC, both Ready or both
Uninitialized, or after INITs whose clamped rates are the same, emit the same samples. -/
def Obligations.RestartReproducesSamples : Prop :=
  (∀ (ws : List CmdWord) (s t : State), s.initDone = t.initDone → s.pinc = t.pinc →
    ∃ l, (transactAll (0x200000000 :: ws) s).samples = s.samples ++ l ∧
      (transactAll (0x200000000 :: ws) t).samples = t.samples ++ l) ∧
  (∀ (ws : List CmdWord) (sr sr' : Int) (s t : State), inS32Range sr = true → inS32Range sr' = true →
    max 1 (min sr 192000) = max 1 (min sr' 192000) →
    ∃ l, (transactAll (encode (.init sr) :: ws) s).samples = s.samples ++ l ∧
      (transactAll (encode (.init sr') :: ws) t).samples = t.samples ++ l)

/-! ### The compute commands (spec/41_compute.md) -/

/-- R112, R114: TICK in Ready writes the candidate phase and GATE and emits the ROM word at bits 31:16 of
the new phase times 6553; in Uninitialized it sets ERR_UNINIT; nothing else changes. -/
def Obligations.TickProducesOneSample : Prop :=
  (∀ s : State, s.initDone = true →
    exec .tick s = .next
      { s with
        phase := if s.gate then s.phase + s.pinc else 0
        gate := true
        samples := s.samples ++
          [BitVec.ofInt 32
            (romRead s.rom (BitVec.ofNat 16 ((if s.gate then s.phase + s.pinc else 0).toNat / 65536))
              * 6553)] }) ∧
  (∀ s : State, s.initDone = false → exec .tick s = .next { s with errUninit := true }) ∧
  ∀ a : Word, decode (packWord 3 a) = .ok .tick

/-- R121, R122, R123: BLOCK n does nothing for n ≤ 0, sets ERR_UNINIT for n > 0 in Uninitialized, and
otherwise performs n ticks in order; at the cycle level the port is busy while samples remain. -/
def Obligations.BlockProducesItsSamples : Prop :=
  (∀ (n : Int) (s : State), n ≤ 0 → exec (.block n) s = .next s) ∧
  (∀ (n : Int) (s : State), 0 < n → s.initDone = false →
    exec (.block n) s = .next { s with errUninit := true }) ∧
  (∀ (n : Int) (s : State), 0 < n → s.initDone = true →
    exec (.block n) s = .next
      ((fun t : State =>
        { t with
          phase := if t.gate then t.phase + t.pinc else 0
          gate := true
          samples := t.samples ++
            [BitVec.ofInt 32
              (romRead t.rom (BitVec.ofNat 16 ((if t.gate then t.phase + t.pinc else 0).toNat / 65536))
                * 6553)] })^[n.toNat] s)) ∧
  (∀ (p : Pins) (s : State), s.remain ≠ 0 → cmdReady p s = false) ∧
  ∀ a : Word, decode (packWord 4 a) = .ok (.block a.toInt)

/-- R115: after RESET or INIT, tick k sets PHASE to k·PINC mod 2^32 and reads the ROM at bits 31:16 of
it; tick 0 emits 19659. -/
def Obligations.PhaseAfterTicks : Prop :=
  ∀ (n : Nat) (s : State), s.initDone = true → s.gate = false →
    ∃ t, exec (.block (n + 1)) s = .next t ∧
      t.phase = BitVec.ofNat 32 (n * s.pinc.toNat) ∧ t.gate = true ∧
      t.samples = s.samples ++ (List.range (n + 1)).map (fun k =>
        BitVec.ofInt 32 (romRead s.rom (BitVec.ofNat 16 (k * s.pinc.toNat % 2 ^ 32 / 65536)) * 6553)) ∧
      t.samples[s.samples.length]? = some 19659

/-- R124: for n > 0, BLOCK n is n consecutive TICKs: the same final state and samples, in both states of
the oscillator. -/
def Obligations.BlockIsConsecutiveTicks : Prop :=
  ∀ (n : Nat) (s : State), 0 < n →
    exec (.block n) s =
      (List.replicate n Instr.tick).foldl
        (fun o i => match o with
          | .next t => exec i t
          | .fault r => .fault r
          | .refused r => .refused r)
        (Outcome.next s)

/-- R110, R114, R121: a compute command goes on and changes at most PHASE, GATE, ERR_UNINIT and the
output, to which it only appends; in Ready the error flag stays, in Uninitialized PHASE, GATE and the
output stay. -/
def Obligations.ComputeCommandsFrame : Prop :=
  ∀ (i : Instr) (s : State), (i = .tick ∨ ∃ n, i = .block n) →
    ∃ t, exec i s = .next t ∧ computeFrame s t ∧ (∀ idx, romRead t.rom idx = romRead s.rom idx) ∧
      s.samples <+: t.samples ∧
      (s.initDone = true → t.errUninit = s.errUninit) ∧
      (s.initDone = false → t.phase = s.phase ∧ t.gate = s.gate ∧ t.samples = s.samples)

/-- R117, its last sentence: with PINC = 0, as for a rate that divides 440, every sample after RESET or
INIT is the constant 19659. -/
def Obligations.ZeroIncrementGivesConstantOutput : Prop :=
  ∀ (n : Nat) (s : State), s.initDone = true → s.pinc = 0 → s.phase = 0 →
    ∃ t, exec (.block n) s = .next t ∧ t.samples = s.samples ++ List.replicate n 19659

/-- R118: the source's index clamp is the identity: bits 31:16 of the phase are the integer part of
65536 × phase, clamped or not. -/
def Obligations.IndexClampIsIdentity : Prop :=
  ∀ c : Word, (tableIndex c).toNat = 65536 * c.toNat / 2 ^ 32 ∧
    min (65536 * c.toNat / 2 ^ 32) 65535 = 65536 * c.toNat / 2 ^ 32

/-- R113: the sample is the exact product of the ROM word and 6553, which 32 bits hold. -/
def Obligations.SampleIsExactProduct : Prop :=
  ∀ (rom : Rom) (idx : RomIndex),
    (sampleAt rom idx).toInt = romRead rom idx * 6553 ∧
    -32767 ≤ romRead rom idx ∧ romRead rom idx ≤ 32767

/-- R116: every sample that a command appends is within ±214722151, and both bounds occur. -/
def Obligations.EmittedSamplesBounded : Prop :=
  (∀ (w : CmdWord) (s t : State), acceptCommand w s = .next t →
    ∃ l, t.samples = s.samples ++ l ∧ ∀ v ∈ l, -214722151 ≤ v.toInt ∧ v.toInt ≤ 214722151) ∧
  (∃ s t : State, s.samples = [] ∧ exec .tick s = .next t ∧ t.samples.map BitVec.toInt = [214722151]) ∧
  (∃ s t : State, s.samples = [] ∧ exec .tick s = .next t ∧ t.samples.map BitVec.toInt = [-214722151])

/-! ### The ROM (spec/20_memory.md) -/

/-- R52: every ROM word is the integer nearest to 32767 times the exact sine of the builder's counter;
R53: no tie occurs, so the distance is below one half. -/
def Obligations.RomIsNearestToSine : Prop :=
  ∀ i : RomIndex,
    |(romRead .sineTable i : ℝ) -
      32767 * Real.sin (2 * Real.pi * (((i.toNat + 1) % 65536 : ℕ) : ℝ) / 65536)| < 1 / 2

/-- R54, items 1 to 3: the range, the antisymmetry and the mirror of the ROM. -/
def Obligations.RomSymmetries : Prop :=
  ∀ i : RomIndex,
    -32767 ≤ romRead .sineTable i ∧ romRead .sineTable i ≤ 32767 ∧
    romRead .sineTable (65534 - i) = -romRead .sineTable i ∧
    romRead .sineTable (32766 - i) = romRead .sineTable i

/-- R54, items 4 and 5: the two zeros and the two runs of peaks. -/
def Obligations.RomZerosAndPeaks : Prop :=
  ∀ i : RomIndex,
    (romRead .sineTable i = 0 ↔ i.toNat = 32767 ∨ i.toNat = 65535) ∧
    (romRead .sineTable i = 32767 ↔ 16326 ≤ i.toNat ∧ i.toNat ≤ 16440) ∧
    (romRead .sineTable i = -32767 ↔ 49094 ≤ i.toNat ∧ i.toNat ≤ 49208)

/-! ### Errors, status and reset (spec/10_state.md, spec/60_exceptions.md) -/

/-- R131: ERR_UNINIT is set by exactly TICK, and BLOCK with a positive count, in Uninitialized, with no
tick, no sample and no other register written; and ERR_BADOP by exactly the reserved words, in either
state; the hardware carries on, and the run that ends with a flag set is faulted. -/
def Obligations.ErrorFlagsSetExactly : Prop :=
  (∀ (i : Instr) (s t : State), exec i s = .next t →
    t.errBadop = s.errBadop ∧
    (t.errUninit = true ↔ s.errUninit = true ∨
      (s.initDone = false ∧ (i = .tick ∨ ∃ n : Int, 0 < n ∧ i = .block n))) ∧
    (s.initDone = false → (i = .tick ∨ ∃ n : Int, 0 < n ∧ i = .block n) →
      t = { s with errUninit := true })) ∧
  (∀ (w : CmdWord) (s t : State), acceptCommand w s = .next t →
    (t.errBadop = true ↔ s.errBadop = true ∨ 5 ≤ (w.extractLsb' 32 4).toNat) ∧
    (5 ≤ (w.extractLsb' 32 4).toNat →
      t = { s with errBadop := true, position := s.position + 1 })) ∧
  ∀ s : State, (Fault.errUninit ∈ runFaults s ↔ s.errUninit = true) ∧
    (Fault.errBadop ∈ runFaults s ↔ s.errBadop = true)

/-- R27, R136: neither a command nor an edge with rst = 0 clears an error flag or INIT_DONE; an edge with
rst = 1 clears all three. -/
def Obligations.FlagsClearedOnlyByReset : Prop :=
  (∀ (w : CmdWord) (s t : State), acceptCommand w s = .next t →
    errorsKept s t ∧ (s.initDone = true → t.initDone = true)) ∧
  (∀ (k : DivCount) (p : Pins) (s : State), p.rst = false →
    errorsKept s (clockEdge k p s) ∧ (s.initDone = true → (clockEdge k p s).initDone = true)) ∧
  (∀ (k : DivCount) (p : Pins) (s : State), p.rst = true →
    (clockEdge k p s).errUninit = false ∧ (clockEdge k p s).errBadop = false ∧
      (clockEdge k p s).initDone = false)

/-- R33: the six bits of the status word, its hardwired zeros, its value after reset, and its value
between commands of the transaction level. -/
def Obligations.StatusWordBits : Prop :=
  (∀ s : State,
    (statusWord s).getLsbD 0 = s.initDone ∧
    (statusWord s).getLsbD 1 = s.gate ∧
    (statusWord s).getLsbD 2 = (decide (s.remain ≠ 0) || decide (s.divCnt ≠ 0)) ∧
    (statusWord s).getLsbD 3 = s.smpValid ∧
    (statusWord s).getLsbD 4 = s.errUninit ∧
    (statusWord s).getLsbD 5 = s.errBadop ∧
    ∀ b, 6 ≤ b → (statusWord s).getLsbD b = false) ∧
  (∀ (k : DivCount) (p : Pins) (s : State), p.rst = true → statusWord (clockEdge k p s) = 0) ∧
  (∀ s : State, s.remain = 0 → s.divCnt = 0 → s.smpValid = false →
    (statusWord s).toNat =
      s.initDone.toNat + 2 * s.gate.toNat + 16 * s.errUninit.toNat + 32 * s.errBadop.toNat)

/-- R34, R36: the outputs are copies of the registers. -/
def Obligations.OutputsCopyRegisters : Prop :=
  ∀ (p : Pins) (s : State),
    (outputs p s).stPhase = s.phase ∧ (outputs p s).stPinc = s.pinc ∧ (outputs p s).stSrc = s.src ∧
    (outputs p s).stRemain = s.remain ∧ (outputs p s).smpValid = s.smpValid ∧
    (outputs p s).smpData = s.smpData ∧ (outputs p s).stStatus = statusWord s ∧
    (outputs p s).cmdReady = cmdReady p s

/-- R35: an edge with rst = 1 takes every register to 0, from any state, and so is State.reset; the ROM
is not reset. -/
def Obligations.ResetZeroesEveryRegister : Prop :=
  (∀ (k : DivCount) (p : Pins) (s t : State), p.rst = true → (t = clockEdge k p s ∨ t = State.reset) →
    t.initDone = false ∧ t.src = 0 ∧ t.pinc = 0 ∧ t.phase = 0 ∧ t.gate = false ∧
    t.errUninit = false ∧ t.errBadop = false ∧ t.remain = 0 ∧ t.divCnt = 0 ∧
    t.smpValid = false ∧ t.smpData = 0) ∧
  ∀ (k : DivCount) (p : Pins) (s : State) (idx : RomIndex), p.rst = true →
    romRead (clockEdge k p s).rom idx = romRead s.rom idx

/-- R133, R150: at an edge with rst = 1 no command is accepted and no sample is transferred. That the
host's own record stays is the model's choice, log entry 9. -/
def Obligations.ResetEdgeAcceptsNothing : Prop :=
  ∀ (k : DivCount) (p : Pins) (s : State), p.rst = true →
    cmdReady p s = false ∧ cmdFire p s = false ∧ (clockEdge k p s).samples = s.samples ∧
    (clockEdge k p s).position = s.position ∧ (clockEdge k p s).inputs = s.inputs

/-! ### Invariants -/

/-- Sanity of the next statement: the state after reset is consistent. -/
def Obligations.ResetIsConsistent : Prop :=
  State.reset.Consistent

/-- R31, with what the model adds to make it inductive: every step, whatever the host does, keeps it. -/
def Obligations.StepKeepsConsistency : Prop :=
  ∀ s t : State, s.Consistent → step s = .next t → t.Consistent

/-- R31: in every state the block can reach from hardware reset, whatever the host does, the rule's four
items hold. -/
def Obligations.ReachableStatesMeetInvariants : Prop :=
  ∀ (host : List HostInput) (k : Nat) (t : State),
    Core.run Sys2Proof.core k { State.reset with inputs := host } = .next t →
    (t.initDone = false → t.src = 0 ∧ t.pinc = 0 ∧ t.phase = 0 ∧ t.gate = false) ∧
    (t.initDone = true → t.divCnt = 0 → 1 ≤ t.src.toNat ∧ t.src.toNat ≤ 192000 ∧
      t.pinc = BitVec.ofNat 32 (440 * 2 ^ 32 / t.src.toNat)) ∧
    (t.gate = false → t.phase = 0) ∧
    (t.remain ≠ 0 → t.initDone = true ∧ t.divCnt = 0)

/-- Sanity of the next statement: the state after reset is within the bound. -/
def Obligations.ResetIsAmplitudeBounded : Prop :=
  State.reset.AmplitudeBounded

/-- R116: every step keeps every sample, transferred or in the output register, within the bound. -/
def Obligations.StepKeepsAmplitudeBound : Prop :=
  ∀ s t : State, s.AmplitudeBounded → step s = .next t → t.AmplitudeBounded

/-! ### The cycle level (spec/70_reset_and_hazards.md) -/

/-- R160: when the port is ready, when a command is accepted, and that the offered word does not matter
where none is. -/
def Obligations.CommandAcceptance : Prop :=
  ∀ (k : DivCount) (p : Pins) (s : State),
    (cmdReady p s = true ↔ p.rst = false ∧ s.remain = 0 ∧ s.divCnt = 0 ∧
      (s.smpValid = false ∨ p.smpReady = true)) ∧
    (cmdFire p s = true ↔ p.cmdValid = true ∧ cmdReady p s = true) ∧
    (cmdFire p s = false → ∀ w, clockEdge k { p with cmdWord := w } s = clockEdge k p s)

/-- R21: the position advances by exactly one per accepted command and not otherwise, along any schedule
of edges without reset, and at the transaction level. -/
def Obligations.PositionCountsAcceptedCommands : Prop :=
  (∀ (k : DivCount) (ps : List Pins) (s : State), (∀ p ∈ ps, p.rst = false) →
    (runEdges k ps s).position = s.position + (acceptedWords k ps s).length) ∧
  ∀ (w : CmdWord) (s t : State), acceptCommand w s = .next t → t.position = s.position + 1

/-- R161: an INIT accepted at an edge writes SRC, INIT_DONE, PHASE and GATE there and loads DIV_CNT; each
later edge decrements it; the port is not ready until it is 0; and from the edge at which it is 0, PINC
holds the increment of the clamped rate for as long as rst stays 0 and no further INIT is accepted. -/
def Obligations.InitBusyInterval : Prop :=
  ∀ (k : DivCount) (p : Pins) (sr : Int) (s : State),
    p.cmdWord = encode (.init sr) → inS32Range sr = true → cmdFire p s = true →
    ∀ ps : List Pins, (∀ q ∈ ps, q.rst = false) → ps.length ≤ k.toNat →
      (runEdges k ps (clockEdge k p s)).divCnt.toNat = k.toNat - ps.length ∧
      (runEdges k ps (clockEdge k p s)).src = BitVec.ofNat 18 (max 1 (min sr 192000)).toNat ∧
      (runEdges k ps (clockEdge k p s)).initDone = true ∧
      (runEdges k ps (clockEdge k p s)).phase = 0 ∧
      (runEdges k ps (clockEdge k p s)).gate = false ∧
      (ps.length < k.toNat → ∀ q, cmdReady q (runEdges k ps (clockEdge k p s)) = false) ∧
      (ps.length = k.toNat → ∀ qs : List Pins, (∀ q ∈ qs, q.rst = false) →
        (∀ w ∈ acceptedWords k qs (runEdges k ps (clockEdge k p s)), ∀ v, decode w ≠ .ok (.init v)) →
        (runEdges k qs (runEdges k ps (clockEdge k p s))).pinc =
          BitVec.ofNat 32 (440 * 2 ^ 32 / (max 1 (min sr 192000)).toNat))

/-- R162: an edge of a BLOCK in progress. With a free output register a tick is performed, its sample goes
into the register and a waiting one is transferred; with an occupied one the edge changes nothing. -/
def Obligations.BlockTickAtEdge : Prop :=
  ∀ (k : DivCount) (p : Pins) (s : State),
    p.rst = false → s.remain ≠ 0 → s.divCnt = 0 →
    clockEdge k p s =
      if s.smpValid = false ∨ p.smpReady = true then
        { s with
          phase := if s.gate then s.phase + s.pinc else 0
          gate := true
          remain := s.remain - 1
          smpValid := true
          smpData := BitVec.ofInt 32
            (romRead s.rom (BitVec.ofNat 16 ((if s.gate then s.phase + s.pinc else 0).toNat / 65536))
              * 6553)
          samples := if s.smpValid then s.samples ++ [s.smpData] else s.samples }
      else s

/-- R162, R161, R76, R114, R121 to R123: what every command word does at its acceptance edge. A waiting
sample is transferred and the output register is left empty, but for TICK in Ready, which fills it. NOP
does no more, and neither does BLOCK n with n ≤ 0; RESET clears PHASE and GATE; INIT starts its busy
interval, with PINC written at once exactly if it is one edge long; BLOCK n with n > 0 in Ready only loads
REMAIN; TICK, and BLOCK n with n > 0, in Uninitialized set ERR_UNINIT; a reserved word sets ERR_BADOP.
(The value of PINC while INIT is busy, and freeCount, are open: log entry 6.) -/
def Obligations.AcceptanceEdgeOfEachWord : Prop :=
  ∀ (k : DivCount) (p : Pins) (s u : State), cmdFire p s = true →
    u = { s with
      position := s.position + 1
      samples := if s.smpValid then s.samples ++ [s.smpData] else s.samples
      smpValid := false } →
    (decode p.cmdWord = .ok .nop → clockEdge k p s = u) ∧
    (decode p.cmdWord = .ok .reset → clockEdge k p s = { u with phase := 0, gate := false }) ∧
    (∀ sr, decode p.cmdWord = .ok (.init sr) →
      ∃ v c, clockEdge k p s =
          { u with
            src := BitVec.ofNat 18 (max 1 (min sr 192000)).toNat
            initDone := true, phase := 0, gate := false, divCnt := k, pinc := v, freeCount := c } ∧
        (k = 0 → v = BitVec.ofNat 32 (440 * 2 ^ 32 / (max 1 (min sr 192000)).toNat) ∧
          c = s.freeCount)) ∧
    (decode p.cmdWord = .ok .tick → clockEdge k p s =
      if s.initDone then
        { u with
          phase := if s.gate then s.phase + s.pinc else 0
          gate := true
          smpValid := true
          smpData := BitVec.ofInt 32
            (romRead s.rom (BitVec.ofNat 16 ((if s.gate then s.phase + s.pinc else 0).toNat / 65536))
              * 6553) }
      else { u with errUninit := true }) ∧
    (∀ n, decode p.cmdWord = .ok (.block n) → clockEdge k p s =
      if n ≤ 0 then u
      else if s.initDone then { u with remain := BitVec.ofInt 32 n }
      else { u with errUninit := true }) ∧
    ∀ op, decode p.cmdWord = .error (.reservedOp op) → clockEdge k p s = { u with errBadop := true }

/-- R143: with cmd_valid low and nothing in progress the block holds its state; only a waiting sample may
be taken. -/
def Obligations.IdleBlockHoldsState : Prop :=
  ∀ (k : DivCount) (p : Pins) (s : State),
    p.rst = false → p.cmdValid = false → s.remain = 0 → s.divCnt = 0 →
    clockEdge k p s =
      if s.smpValid = true ∧ p.smpReady = true then
        { s with smpValid := false, samples := s.samples ++ [s.smpData] }
      else s

/-- R163 at one edge: carrying the pending work to its end commutes with the edge. An edge that accepts
no command does not change what the transaction level sees; an edge that accepts a word is that word's
transaction. -/
def Obligations.EdgeRefinesTransaction : Prop :=
  ∀ (k : DivCount) (p : Pins) (s : State), s.Consistent → p.rst = false →
    (cmdFire p s = false →
      (finishPending (clockEdge k p s)).transactionView = (finishPending s).transactionView) ∧
    (cmdFire p s = true →
      (finishPending (clockEdge k p s)).transactionView =
        (transact p.cmdWord (finishPending s)).transactionView)

/-- R163: in any run from reset in which rst stays 0, the samples transferred are the start of the
transaction rules' list for the accepted words, all of it once the run is quiescent, and whenever the
port is ready the transaction registers are those the transaction rules give. -/
def Obligations.RunAgreesWithTransactions : Prop :=
  ∀ (k : DivCount) (ps : List Pins) (t u : State), (∀ p ∈ ps, p.rst = false) →
    t = runEdges k ps State.reset →
    u = transactAll (acceptedWords k ps State.reset) State.reset →
    t.samples <+: u.samples ∧
    (quiescent t = true → t.samples = u.samples) ∧
    ∀ p, cmdReady p t = true →
      t.initDone = u.initDone ∧ t.src = u.src ∧ t.pinc = u.pinc ∧ t.phase = u.phase ∧
      t.gate = u.gate ∧ t.errUninit = u.errUninit ∧ t.errBadop = u.errBadop

/-- R166, R168: with the consumer ready and rst low, a BLOCK with n samples to produce and an empty
output register holds the port for n edges: REMAIN counts them, and all n samples but the last have
been transferred when it reaches 0. -/
def Obligations.BlockHoldsPortForItsSamples : Prop :=
  ∀ (k : DivCount) (s : State) (ps : List Pins),
    s.divCnt = 0 → s.smpValid = false →
    (∀ q ∈ ps, q.rst = false ∧ q.smpReady = true) → ps.length ≤ s.remain.toNat →
    (runEdges k ps s).remain.toNat = s.remain.toNat - ps.length ∧
    (runEdges k ps s).samples.length = s.samples.length + (ps.length - 1) ∧
    (ps.length < s.remain.toNat → ∀ q, cmdReady q (runEdges k ps s) = false)

/-! ### Pseudo-instructions (spec/30_encoding.md) -/

/-- R79: the words each pseudo-instruction expands to: k TICK words for TICKN k, the RESET word for
RESTART, the INIT word for SETUP and the BLOCK word for SILENT. Outside the ranges that R79 gives, k ≥ 0
and n ≤ 0, and outside R78's range of the operand, the line is rejected (log entry 12). -/
def Obligations.PseudoInstructionsExpand : Prop :=
  (∀ k : Nat, assembleLine (.tickN k) = .ok (List.replicate k 0x300000000)) ∧
  (∀ k : Int, k < 0 → assembleLine (.tickN k) = .error .operandOutOfRange) ∧
  assembleLine .restart = .ok [0x200000000] ∧
  (∀ v : Int, -2147483648 ≤ v → v ≤ 2147483647 →
    assembleLine (.setup v) = .ok [BitVec.ofInt 36 (1 * 2 ^ 32 + v % 2 ^ 32)]) ∧
  (∀ v : Int, v < -2147483648 ∨ 2147483647 < v →
    assembleLine (.setup v) = .error .operandOutOfRange) ∧
  (∀ v : Int, -2147483648 ≤ v → v ≤ 0 →
    assembleLine (.silent v) = .ok [BitVec.ofInt 36 (4 * 2 ^ 32 + v % 2 ^ 32)]) ∧
  ∀ v : Int, v < -2147483648 ∨ 0 < v → assembleLine (.silent v) = .error .operandOutOfRange

/-! ### Runs (spec/70_reset_and_hazards.md, R169) -/

/-- R169: the run of a command sequence ends at the first step after which every command of the sequence
has been accepted and REMAIN, DIV_CNT and SMP_VALID are 0, whatever the host does afterwards, provided no
reset edge follows its first command. (That the state the run starts in counts, and that reset edges
before the first command belong to the run, is log entry 15.) -/
def Obligations.RunEndsAtFirstEdge : Prop :=
  ∀ (n : Nat) (sequence : List CmdWord) (s t : State),
    endOfRun n false sequence s = some t ↔
      ∃ j ≤ n, t = nextState^[j] s ∧
        (List.range j).filterMap (fun i => acceptedByStep (nextState^[i] s)) = sequence ∧
        t.remain = 0 ∧ t.divCnt = 0 ∧ t.smpValid = false ∧
        (∀ m < j, ¬((List.range m).filterMap (fun i => acceptedByStep (nextState^[i] s)) = sequence ∧
          quiescent (nextState^[m] s) = true)) ∧
        ∀ m < j, resetStep (nextState^[m] s) = true →
          (List.range m).filterMap (fun i => acceptedByStep (nextState^[i] s)) = []

/-- R169, R131: the result of a run is the transaction registers at its end, the samples transferred
during it, and the faults: it has faulted exactly if ERR_UNINIT or ERR_BADOP is 1 at the end. -/
def Obligations.RunResultReportsEnd : Prop :=
  ∀ (n : Nat) (sequence : List CmdWord) (s t : State), endOfRun n false sequence s = some t →
    ∃ r, runResult n sequence s = some r ∧
      r.final.initDone = t.initDone ∧ r.final.src = t.src ∧ r.final.pinc = t.pinc ∧
      r.final.phase = t.phase ∧ r.final.gate = t.gate ∧ r.final.errUninit = t.errUninit ∧
      r.final.errBadop = t.errBadop ∧ t.samples = s.samples ++ r.final.samples ∧
      (r.faults ≠ [] ↔ t.errUninit = true ∨ t.errBadop = true)

/-- R163, R169: a run from reset ends in the registers and with the output that the transaction rules give
for its sequence, whatever edges the host schedules. -/
def Obligations.RunResultIsTransactional : Prop :=
  ∀ (n : Nat) (sequence : List CmdWord) (s t : State), hardwareReset s = s →
    endOfRun n false sequence s = some t →
    t.transactionView = (transactAll sequence s).transactionView

/-- R150, R169: a reset edge after a run's first command makes two runs. A later run starts in a state
exactly if the step into that state is a reset edge with an accepted command before it and no reset edge
between the two; and every later run starts with all registers 0. (That reset edges before a run's first
command belong to that run, and so start no run of their own, is log entry 15.) -/
def Obligations.LaterRunsStartFromReset : Prop :=
  (∀ (n : Nat) (s u : State), u ∈ runStarts n false s ↔
    ∃ m < n, u = nextState^[m + 1] s ∧ resetStep (nextState^[m] s) = true ∧
      ∃ i < m, (acceptedByStep (nextState^[i] s)).isSome = true ∧
        ∀ l, i < l → l < m → resetStep (nextState^[l] s) = false) ∧
  ∀ (n : Nat) (s u : State), u ∈ runStarts n false s → hardwareReset u = u

/-- R169, log entry 15: where the host names no other sequence, that of a run is the words accepted from
its start up to the reset edge that starts the next run, or in all n steps looked at if there is none;
reset edges before the first accepted word do not end it. -/
def Obligations.SequenceOfRunIsItsAcceptedWords : Prop :=
  ∀ (n : Nat) (s : State), ∃ j ≤ n,
    sequenceOfRun n false s =
      (List.range j).filterMap (fun i => acceptedByStep (nextState^[i] s)) ∧
    (j = n ∨ resetStep (nextState^[j] s) = true ∧ sequenceOfRun n false s ≠ []) ∧
    ∀ m < j, resetStep (nextState^[m] s) = true →
      (List.range m).filterMap (fun i => acceptedByStep (nextState^[i] s)) = []

/-- R163, R169: the runs of a schedule. There is one from the first state and one from each start of a
later run, in order, each with its own sequence. A run has a result exactly if R169's conditions hold for
its sequence after some step before the next run's reset edge. If the first run starts from reset, every
result is what the transaction rules give for that run's sequence from reset: registers, output and
faults. (Which reset edges make runs, and what the sequence of a run is, is log entry 15.) -/
def Obligations.RunsOfAScheduleAreTransactional : Prop :=
  ∀ (n : Nat) (s : State),
    (runsWithin n s).map Prod.fst = (s :: runStarts n false s).map (sequenceOfRun n false) ∧
    (∀ q o, (q, o) ∈ runsWithin n s → ∃ u, (u = s ∨ u ∈ runStarts n false s) ∧
      q = sequenceOfRun n false u ∧
      (o.isSome = true ↔ ∃ j ≤ n,
        (List.range j).filterMap (fun i => acceptedByStep (nextState^[i] u)) = q ∧
        quiescent (nextState^[j] u) = true ∧
        ∀ m < j, resetStep (nextState^[m] u) = true →
          (List.range m).filterMap (fun i => acceptedByStep (nextState^[i] u)) = [])) ∧
    (hardwareReset s = s → ∀ q r, (q, some r) ∈ runsWithin n s →
      r.final = (transactAll q State.reset).transactionView ∧
      r.faults = runFaults (transactAll q State.reset))
end

