-- ==== Sys2Proof/Laws/Decode.lean ====
section
/-! SUPPORT. The fields of command words and the cases of the decoder. -/

namespace Sys2Proof

/-- The OP field of a packed word is the OP it was packed from (R70). -/
theorem opField_packWord (op : BitVec 4) (a : Word) : opField (packWord op a) = op := by
  unfold opField packWord
  apply BitVec.eq_of_getLsbD_eq
  intro i hi
  rw [BitVec.getLsbD_extractLsb', BitVec.getLsbD_cast, BitVec.getLsbD_append]
  simp [hi]

/-- The ARG field of a packed word is the ARG it was packed from (R70). -/
theorem argField_packWord (op : BitVec 4) (a : Word) : argField (packWord op a) = a := by
  unfold argField packWord
  apply BitVec.eq_of_getLsbD_eq
  intro i hi
  rw [BitVec.getLsbD_extractLsb', BitVec.getLsbD_cast, BitVec.getLsbD_append]
  simp [hi]

/-- A packed word as a number: OP·2^32 + ARG (R70). -/
theorem packWord_toNat (op : BitVec 4) (a : Word) :
    (packWord op a).toNat = op.toNat * 2 ^ 32 + a.toNat := by
  rw [packWord, BitVec.toNat_cast, BitVec.toNat_append,
    ← Nat.shiftLeft_add_eq_or_of_lt (BitVec.isLt a), Nat.shiftLeft_eq]

/-- A word is packed from its two fields (R70). -/
theorem packWord_fields (w : CmdWord) : packWord (opField w) (argField w) = w := by
  unfold opField argField packWord
  apply BitVec.eq_of_getLsbD_eq
  intro i hi
  rw [BitVec.getLsbD_cast, BitVec.getLsbD_append, BitVec.getLsbD_extractLsb',
    BitVec.getLsbD_extractLsb']
  by_cases h : i < 32
  · simp [h]
  · have h2 : i - 32 < 4 := by omega
    have h3 : 32 + (i - 32) = i := by omega
    simp [h, h2, h3]

/-- The range check as two inequalities. -/
theorem inS32Range_iff (v : Int) : inS32Range v = true ↔ -2147483648 ≤ v ∧ v ≤ 2147483647 := by
  simp [inS32Range]

/-- s32 reads back an integer in range (R71, R78). -/
theorem s32_argOf {v : Int} (h : inS32Range v = true) : s32 (argOf v) = v := by
  rw [inS32Range_iff] at h
  unfold s32 argOf
  rw [BitVec.toInt_ofInt]
  simp only [Int.bmod_def]
  omega

/-- Writing s32 of a word back gives the word. -/
theorem argOf_s32 (a : Word) : argOf (s32 a) = a := by
  simp [argOf, s32]

/-- s32 of a word is in range (R71). -/
theorem inS32Range_s32 (a : Word) : inS32Range (s32 a) = true := by
  rw [inS32Range_iff]
  have h1 := BitVec.toInt_lt (x := a)
  have h2 := BitVec.le_toInt (x := a)
  unfold s32
  omega

/-- What the decoder can answer, and for which OP (R72, R74). -/
theorem decode_cases (w : CmdWord) :
    (decode w = .ok .nop ∧ opField w = 0) ∨
    (decode w = .ok (.init (s32 (argField w))) ∧ opField w = 1) ∨
    (decode w = .ok .reset ∧ opField w = 2) ∨
    (decode w = .ok .tick ∧ opField w = 3) ∨
    (decode w = .ok (.block (s32 (argField w))) ∧ opField w = 4) ∨
    (decode w = .error (.reservedOp (opField w)) ∧ 5 ≤ (opField w).toNat) := by
  unfold decode
  generalize opField w = op
  generalize argField w = a
  have h := op.isLt
  revert h
  obtain ⟨⟨n, hn⟩⟩ := op
  interval_cases n <;> simp

/-- Under the mask only OP is left (R73). -/
theorem and_opMask (w : CmdWord) : w &&& opMask = packWord (opField w) 0 := by
  apply BitVec.eq_of_getLsbD_eq
  intro i hi
  have hm : opMask.getLsbD i = decide (32 ≤ i) := by
    interval_cases i <;> decide
  unfold opField packWord
  rw [BitVec.getLsbD_cast, BitVec.getLsbD_append, BitVec.getLsbD_and, hm]
  by_cases h : i < 32
  · simp [h]
  · have h2 : i - 32 < 4 := by omega
    have h3 : 32 + (i - 32) = i := by omega
    simp [h, h2, h3]; omega

/-- Packed words are equal exactly when their fields are. -/
theorem packWord_inj {a b : BitVec 4} {x y : Word} :
    packWord a x = packWord b y ↔ a = b ∧ x = y := by
  constructor
  · intro h
    exact ⟨by simpa [opField_packWord] using congrArg opField h,
      by simpa [argField_packWord] using congrArg argField h⟩
  · rintro ⟨rfl, rfl⟩; rfl

end Sys2Proof
end

