-- ==== Sys2Proof/Laws/State.lean ====
section
/-! SUPPORT. One lemma per field per named update of the state, each true by definition, so that no proof
unfolds a record update. -/

namespace Sys2Proof.Machine

/-! ### setErrUninit -/

@[simp] theorem setErrUninit_initDone (s : State) :
    (setErrUninit s).initDone = s.initDone := rfl
@[simp] theorem setErrUninit_src (s : State) :
    (setErrUninit s).src = s.src := rfl
@[simp] theorem setErrUninit_pinc (s : State) :
    (setErrUninit s).pinc = s.pinc := rfl
@[simp] theorem setErrUninit_phase (s : State) :
    (setErrUninit s).phase = s.phase := rfl
@[simp] theorem setErrUninit_gate (s : State) :
    (setErrUninit s).gate = s.gate := rfl
@[simp] theorem setErrUninit_errUninit (s : State) :
    (setErrUninit s).errUninit = true := rfl
@[simp] theorem setErrUninit_errBadop (s : State) :
    (setErrUninit s).errBadop = s.errBadop := rfl
@[simp] theorem setErrUninit_remain (s : State) :
    (setErrUninit s).remain = s.remain := rfl
@[simp] theorem setErrUninit_divCnt (s : State) :
    (setErrUninit s).divCnt = s.divCnt := rfl
@[simp] theorem setErrUninit_smpValid (s : State) :
    (setErrUninit s).smpValid = s.smpValid := rfl
@[simp] theorem setErrUninit_smpData (s : State) :
    (setErrUninit s).smpData = s.smpData := rfl
@[simp] theorem setErrUninit_rom (s : State) :
    (setErrUninit s).rom = s.rom := rfl
@[simp] theorem setErrUninit_inputs (s : State) :
    (setErrUninit s).inputs = s.inputs := rfl
@[simp] theorem setErrUninit_position (s : State) :
    (setErrUninit s).position = s.position := rfl
@[simp] theorem setErrUninit_samples (s : State) :
    (setErrUninit s).samples = s.samples := rfl
@[simp] theorem setErrUninit_freeCount (s : State) :
    (setErrUninit s).freeCount = s.freeCount := rfl

/-! ### setErrBadop -/

@[simp] theorem setErrBadop_initDone (s : State) :
    (setErrBadop s).initDone = s.initDone := rfl
@[simp] theorem setErrBadop_src (s : State) :
    (setErrBadop s).src = s.src := rfl
@[simp] theorem setErrBadop_pinc (s : State) :
    (setErrBadop s).pinc = s.pinc := rfl
@[simp] theorem setErrBadop_phase (s : State) :
    (setErrBadop s).phase = s.phase := rfl
@[simp] theorem setErrBadop_gate (s : State) :
    (setErrBadop s).gate = s.gate := rfl
@[simp] theorem setErrBadop_errUninit (s : State) :
    (setErrBadop s).errUninit = s.errUninit := rfl
@[simp] theorem setErrBadop_errBadop (s : State) :
    (setErrBadop s).errBadop = true := rfl
@[simp] theorem setErrBadop_remain (s : State) :
    (setErrBadop s).remain = s.remain := rfl
@[simp] theorem setErrBadop_divCnt (s : State) :
    (setErrBadop s).divCnt = s.divCnt := rfl
@[simp] theorem setErrBadop_smpValid (s : State) :
    (setErrBadop s).smpValid = s.smpValid := rfl
@[simp] theorem setErrBadop_smpData (s : State) :
    (setErrBadop s).smpData = s.smpData := rfl
@[simp] theorem setErrBadop_rom (s : State) :
    (setErrBadop s).rom = s.rom := rfl
@[simp] theorem setErrBadop_inputs (s : State) :
    (setErrBadop s).inputs = s.inputs := rfl
@[simp] theorem setErrBadop_position (s : State) :
    (setErrBadop s).position = s.position := rfl
@[simp] theorem setErrBadop_samples (s : State) :
    (setErrBadop s).samples = s.samples := rfl
@[simp] theorem setErrBadop_freeCount (s : State) :
    (setErrBadop s).freeCount = s.freeCount := rfl

/-! ### advancePosition -/

@[simp] theorem advancePosition_initDone (s : State) :
    (advancePosition s).initDone = s.initDone := rfl
@[simp] theorem advancePosition_src (s : State) :
    (advancePosition s).src = s.src := rfl
@[simp] theorem advancePosition_pinc (s : State) :
    (advancePosition s).pinc = s.pinc := rfl
@[simp] theorem advancePosition_phase (s : State) :
    (advancePosition s).phase = s.phase := rfl
@[simp] theorem advancePosition_gate (s : State) :
    (advancePosition s).gate = s.gate := rfl
@[simp] theorem advancePosition_errUninit (s : State) :
    (advancePosition s).errUninit = s.errUninit := rfl
@[simp] theorem advancePosition_errBadop (s : State) :
    (advancePosition s).errBadop = s.errBadop := rfl
@[simp] theorem advancePosition_remain (s : State) :
    (advancePosition s).remain = s.remain := rfl
@[simp] theorem advancePosition_divCnt (s : State) :
    (advancePosition s).divCnt = s.divCnt := rfl
@[simp] theorem advancePosition_smpValid (s : State) :
    (advancePosition s).smpValid = s.smpValid := rfl
@[simp] theorem advancePosition_smpData (s : State) :
    (advancePosition s).smpData = s.smpData := rfl
@[simp] theorem advancePosition_rom (s : State) :
    (advancePosition s).rom = s.rom := rfl
@[simp] theorem advancePosition_inputs (s : State) :
    (advancePosition s).inputs = s.inputs := rfl
@[simp] theorem advancePosition_position (s : State) :
    (advancePosition s).position = s.position + 1 := rfl
@[simp] theorem advancePosition_samples (s : State) :
    (advancePosition s).samples = s.samples := rfl
@[simp] theorem advancePosition_freeCount (s : State) :
    (advancePosition s).freeCount = s.freeCount := rfl

/-! ### setInputs -/

@[simp] theorem setInputs_initDone (l : List HostInput) (s : State) :
    (setInputs l s).initDone = s.initDone := rfl
@[simp] theorem setInputs_src (l : List HostInput) (s : State) :
    (setInputs l s).src = s.src := rfl
@[simp] theorem setInputs_pinc (l : List HostInput) (s : State) :
    (setInputs l s).pinc = s.pinc := rfl
@[simp] theorem setInputs_phase (l : List HostInput) (s : State) :
    (setInputs l s).phase = s.phase := rfl
@[simp] theorem setInputs_gate (l : List HostInput) (s : State) :
    (setInputs l s).gate = s.gate := rfl
@[simp] theorem setInputs_errUninit (l : List HostInput) (s : State) :
    (setInputs l s).errUninit = s.errUninit := rfl
@[simp] theorem setInputs_errBadop (l : List HostInput) (s : State) :
    (setInputs l s).errBadop = s.errBadop := rfl
@[simp] theorem setInputs_remain (l : List HostInput) (s : State) :
    (setInputs l s).remain = s.remain := rfl
@[simp] theorem setInputs_divCnt (l : List HostInput) (s : State) :
    (setInputs l s).divCnt = s.divCnt := rfl
@[simp] theorem setInputs_smpValid (l : List HostInput) (s : State) :
    (setInputs l s).smpValid = s.smpValid := rfl
@[simp] theorem setInputs_smpData (l : List HostInput) (s : State) :
    (setInputs l s).smpData = s.smpData := rfl
@[simp] theorem setInputs_rom (l : List HostInput) (s : State) :
    (setInputs l s).rom = s.rom := rfl
@[simp] theorem setInputs_inputs (l : List HostInput) (s : State) :
    (setInputs l s).inputs = l := rfl
@[simp] theorem setInputs_position (l : List HostInput) (s : State) :
    (setInputs l s).position = s.position := rfl
@[simp] theorem setInputs_samples (l : List HostInput) (s : State) :
    (setInputs l s).samples = s.samples := rfl
@[simp] theorem setInputs_freeCount (l : List HostInput) (s : State) :
    (setInputs l s).freeCount = s.freeCount := rfl

/-! ### emitSample -/

@[simp] theorem emitSample_initDone (v : Word) (s : State) :
    (emitSample v s).initDone = s.initDone := rfl
@[simp] theorem emitSample_src (v : Word) (s : State) :
    (emitSample v s).src = s.src := rfl
@[simp] theorem emitSample_pinc (v : Word) (s : State) :
    (emitSample v s).pinc = s.pinc := rfl
@[simp] theorem emitSample_phase (v : Word) (s : State) :
    (emitSample v s).phase = s.phase := rfl
@[simp] theorem emitSample_gate (v : Word) (s : State) :
    (emitSample v s).gate = s.gate := rfl
@[simp] theorem emitSample_errUninit (v : Word) (s : State) :
    (emitSample v s).errUninit = s.errUninit := rfl
@[simp] theorem emitSample_errBadop (v : Word) (s : State) :
    (emitSample v s).errBadop = s.errBadop := rfl
@[simp] theorem emitSample_remain (v : Word) (s : State) :
    (emitSample v s).remain = s.remain := rfl
@[simp] theorem emitSample_divCnt (v : Word) (s : State) :
    (emitSample v s).divCnt = s.divCnt := rfl
@[simp] theorem emitSample_smpValid (v : Word) (s : State) :
    (emitSample v s).smpValid = s.smpValid := rfl
@[simp] theorem emitSample_smpData (v : Word) (s : State) :
    (emitSample v s).smpData = s.smpData := rfl
@[simp] theorem emitSample_rom (v : Word) (s : State) :
    (emitSample v s).rom = s.rom := rfl
@[simp] theorem emitSample_inputs (v : Word) (s : State) :
    (emitSample v s).inputs = s.inputs := rfl
@[simp] theorem emitSample_position (v : Word) (s : State) :
    (emitSample v s).position = s.position := rfl
@[simp] theorem emitSample_samples (v : Word) (s : State) :
    (emitSample v s).samples = s.samples ++ [v] := rfl
@[simp] theorem emitSample_freeCount (v : Word) (s : State) :
    (emitSample v s).freeCount = s.freeCount := rfl

/-! ### restart -/

@[simp] theorem restart_initDone (s : State) :
    (restart s).initDone = s.initDone := rfl
@[simp] theorem restart_src (s : State) :
    (restart s).src = s.src := rfl
@[simp] theorem restart_pinc (s : State) :
    (restart s).pinc = s.pinc := rfl
@[simp] theorem restart_phase (s : State) :
    (restart s).phase = 0 := rfl
@[simp] theorem restart_gate (s : State) :
    (restart s).gate = false := rfl
@[simp] theorem restart_errUninit (s : State) :
    (restart s).errUninit = s.errUninit := rfl
@[simp] theorem restart_errBadop (s : State) :
    (restart s).errBadop = s.errBadop := rfl
@[simp] theorem restart_remain (s : State) :
    (restart s).remain = s.remain := rfl
@[simp] theorem restart_divCnt (s : State) :
    (restart s).divCnt = s.divCnt := rfl
@[simp] theorem restart_smpValid (s : State) :
    (restart s).smpValid = s.smpValid := rfl
@[simp] theorem restart_smpData (s : State) :
    (restart s).smpData = s.smpData := rfl
@[simp] theorem restart_rom (s : State) :
    (restart s).rom = s.rom := rfl
@[simp] theorem restart_inputs (s : State) :
    (restart s).inputs = s.inputs := rfl
@[simp] theorem restart_position (s : State) :
    (restart s).position = s.position := rfl
@[simp] theorem restart_samples (s : State) :
    (restart s).samples = s.samples := rfl
@[simp] theorem restart_freeCount (s : State) :
    (restart s).freeCount = s.freeCount := rfl

/-! ### loadRate -/

@[simp] theorem loadRate_initDone (sr : Int) (s : State) :
    (loadRate sr s).initDone = true := rfl
@[simp] theorem loadRate_src (sr : Int) (s : State) :
    (loadRate sr s).src = BitVec.ofNat 18 (clampRate sr) := rfl
@[simp] theorem loadRate_pinc (sr : Int) (s : State) :
    (loadRate sr s).pinc = s.pinc := rfl
@[simp] theorem loadRate_phase (sr : Int) (s : State) :
    (loadRate sr s).phase = 0 := rfl
@[simp] theorem loadRate_gate (sr : Int) (s : State) :
    (loadRate sr s).gate = false := rfl
@[simp] theorem loadRate_errUninit (sr : Int) (s : State) :
    (loadRate sr s).errUninit = s.errUninit := rfl
@[simp] theorem loadRate_errBadop (sr : Int) (s : State) :
    (loadRate sr s).errBadop = s.errBadop := rfl
@[simp] theorem loadRate_remain (sr : Int) (s : State) :
    (loadRate sr s).remain = s.remain := rfl
@[simp] theorem loadRate_divCnt (sr : Int) (s : State) :
    (loadRate sr s).divCnt = s.divCnt := rfl
@[simp] theorem loadRate_smpValid (sr : Int) (s : State) :
    (loadRate sr s).smpValid = s.smpValid := rfl
@[simp] theorem loadRate_smpData (sr : Int) (s : State) :
    (loadRate sr s).smpData = s.smpData := rfl
@[simp] theorem loadRate_rom (sr : Int) (s : State) :
    (loadRate sr s).rom = s.rom := rfl
@[simp] theorem loadRate_inputs (sr : Int) (s : State) :
    (loadRate sr s).inputs = s.inputs := rfl
@[simp] theorem loadRate_position (sr : Int) (s : State) :
    (loadRate sr s).position = s.position := rfl
@[simp] theorem loadRate_samples (sr : Int) (s : State) :
    (loadRate sr s).samples = s.samples := rfl
@[simp] theorem loadRate_freeCount (sr : Int) (s : State) :
    (loadRate sr s).freeCount = s.freeCount := rfl

/-! ### setPinc -/

@[simp] theorem setPinc_initDone (v : Word) (s : State) :
    (setPinc v s).initDone = s.initDone := rfl
@[simp] theorem setPinc_src (v : Word) (s : State) :
    (setPinc v s).src = s.src := rfl
@[simp] theorem setPinc_pinc (v : Word) (s : State) :
    (setPinc v s).pinc = v := rfl
@[simp] theorem setPinc_phase (v : Word) (s : State) :
    (setPinc v s).phase = s.phase := rfl
@[simp] theorem setPinc_gate (v : Word) (s : State) :
    (setPinc v s).gate = s.gate := rfl
@[simp] theorem setPinc_errUninit (v : Word) (s : State) :
    (setPinc v s).errUninit = s.errUninit := rfl
@[simp] theorem setPinc_errBadop (v : Word) (s : State) :
    (setPinc v s).errBadop = s.errBadop := rfl
@[simp] theorem setPinc_remain (v : Word) (s : State) :
    (setPinc v s).remain = s.remain := rfl
@[simp] theorem setPinc_divCnt (v : Word) (s : State) :
    (setPinc v s).divCnt = s.divCnt := rfl
@[simp] theorem setPinc_smpValid (v : Word) (s : State) :
    (setPinc v s).smpValid = s.smpValid := rfl
@[simp] theorem setPinc_smpData (v : Word) (s : State) :
    (setPinc v s).smpData = s.smpData := rfl
@[simp] theorem setPinc_rom (v : Word) (s : State) :
    (setPinc v s).rom = s.rom := rfl
@[simp] theorem setPinc_inputs (v : Word) (s : State) :
    (setPinc v s).inputs = s.inputs := rfl
@[simp] theorem setPinc_position (v : Word) (s : State) :
    (setPinc v s).position = s.position := rfl
@[simp] theorem setPinc_samples (v : Word) (s : State) :
    (setPinc v s).samples = s.samples := rfl
@[simp] theorem setPinc_freeCount (v : Word) (s : State) :
    (setPinc v s).freeCount = s.freeCount := rfl

/-! ### scramblePinc -/

@[simp] theorem scramblePinc_initDone (s : State) :
    (scramblePinc s).initDone = s.initDone := rfl
@[simp] theorem scramblePinc_src (s : State) :
    (scramblePinc s).src = s.src := rfl
@[simp] theorem scramblePinc_pinc (s : State) :
    (scramblePinc s).pinc = Config.freePinc s.freeCount := rfl
@[simp] theorem scramblePinc_phase (s : State) :
    (scramblePinc s).phase = s.phase := rfl
@[simp] theorem scramblePinc_gate (s : State) :
    (scramblePinc s).gate = s.gate := rfl
@[simp] theorem scramblePinc_errUninit (s : State) :
    (scramblePinc s).errUninit = s.errUninit := rfl
@[simp] theorem scramblePinc_errBadop (s : State) :
    (scramblePinc s).errBadop = s.errBadop := rfl
@[simp] theorem scramblePinc_remain (s : State) :
    (scramblePinc s).remain = s.remain := rfl
@[simp] theorem scramblePinc_divCnt (s : State) :
    (scramblePinc s).divCnt = s.divCnt := rfl
@[simp] theorem scramblePinc_smpValid (s : State) :
    (scramblePinc s).smpValid = s.smpValid := rfl
@[simp] theorem scramblePinc_smpData (s : State) :
    (scramblePinc s).smpData = s.smpData := rfl
@[simp] theorem scramblePinc_rom (s : State) :
    (scramblePinc s).rom = s.rom := rfl
@[simp] theorem scramblePinc_inputs (s : State) :
    (scramblePinc s).inputs = s.inputs := rfl
@[simp] theorem scramblePinc_position (s : State) :
    (scramblePinc s).position = s.position := rfl
@[simp] theorem scramblePinc_samples (s : State) :
    (scramblePinc s).samples = s.samples := rfl
@[simp] theorem scramblePinc_freeCount (s : State) :
    (scramblePinc s).freeCount = s.freeCount + 1 := rfl

/-! ### advancePhase -/

@[simp] theorem advancePhase_initDone (s : State) :
    (advancePhase s).initDone = s.initDone := rfl
@[simp] theorem advancePhase_src (s : State) :
    (advancePhase s).src = s.src := rfl
@[simp] theorem advancePhase_pinc (s : State) :
    (advancePhase s).pinc = s.pinc := rfl
@[simp] theorem advancePhase_phase (s : State) :
    (advancePhase s).phase = candidatePhase s := rfl
@[simp] theorem advancePhase_gate (s : State) :
    (advancePhase s).gate = true := rfl
@[simp] theorem advancePhase_errUninit (s : State) :
    (advancePhase s).errUninit = s.errUninit := rfl
@[simp] theorem advancePhase_errBadop (s : State) :
    (advancePhase s).errBadop = s.errBadop := rfl
@[simp] theorem advancePhase_remain (s : State) :
    (advancePhase s).remain = s.remain := rfl
@[simp] theorem advancePhase_divCnt (s : State) :
    (advancePhase s).divCnt = s.divCnt := rfl
@[simp] theorem advancePhase_smpValid (s : State) :
    (advancePhase s).smpValid = s.smpValid := rfl
@[simp] theorem advancePhase_smpData (s : State) :
    (advancePhase s).smpData = s.smpData := rfl
@[simp] theorem advancePhase_rom (s : State) :
    (advancePhase s).rom = s.rom := rfl
@[simp] theorem advancePhase_inputs (s : State) :
    (advancePhase s).inputs = s.inputs := rfl
@[simp] theorem advancePhase_position (s : State) :
    (advancePhase s).position = s.position := rfl
@[simp] theorem advancePhase_samples (s : State) :
    (advancePhase s).samples = s.samples := rfl
@[simp] theorem advancePhase_freeCount (s : State) :
    (advancePhase s).freeCount = s.freeCount := rfl

/-! ### doTick -/

@[simp] theorem doTick_initDone (s : State) :
    (doTick s).initDone = s.initDone := rfl
@[simp] theorem doTick_src (s : State) :
    (doTick s).src = s.src := rfl
@[simp] theorem doTick_pinc (s : State) :
    (doTick s).pinc = s.pinc := rfl
@[simp] theorem doTick_phase (s : State) :
    (doTick s).phase = candidatePhase s := rfl
@[simp] theorem doTick_gate (s : State) :
    (doTick s).gate = true := rfl
@[simp] theorem doTick_errUninit (s : State) :
    (doTick s).errUninit = s.errUninit := rfl
@[simp] theorem doTick_errBadop (s : State) :
    (doTick s).errBadop = s.errBadop := rfl
@[simp] theorem doTick_remain (s : State) :
    (doTick s).remain = s.remain := rfl
@[simp] theorem doTick_divCnt (s : State) :
    (doTick s).divCnt = s.divCnt := rfl
@[simp] theorem doTick_smpValid (s : State) :
    (doTick s).smpValid = s.smpValid := rfl
@[simp] theorem doTick_smpData (s : State) :
    (doTick s).smpData = s.smpData := rfl
@[simp] theorem doTick_rom (s : State) :
    (doTick s).rom = s.rom := rfl
@[simp] theorem doTick_inputs (s : State) :
    (doTick s).inputs = s.inputs := rfl
@[simp] theorem doTick_position (s : State) :
    (doTick s).position = s.position := rfl
@[simp] theorem doTick_samples (s : State) :
    (doTick s).samples = s.samples ++ [tickSample s] := rfl
@[simp] theorem doTick_freeCount (s : State) :
    (doTick s).freeCount = s.freeCount := rfl

/-! ### setRemain -/

@[simp] theorem setRemain_initDone (v : Word) (s : State) :
    (setRemain v s).initDone = s.initDone := rfl
@[simp] theorem setRemain_src (v : Word) (s : State) :
    (setRemain v s).src = s.src := rfl
@[simp] theorem setRemain_pinc (v : Word) (s : State) :
    (setRemain v s).pinc = s.pinc := rfl
@[simp] theorem setRemain_phase (v : Word) (s : State) :
    (setRemain v s).phase = s.phase := rfl
@[simp] theorem setRemain_gate (v : Word) (s : State) :
    (setRemain v s).gate = s.gate := rfl
@[simp] theorem setRemain_errUninit (v : Word) (s : State) :
    (setRemain v s).errUninit = s.errUninit := rfl
@[simp] theorem setRemain_errBadop (v : Word) (s : State) :
    (setRemain v s).errBadop = s.errBadop := rfl
@[simp] theorem setRemain_remain (v : Word) (s : State) :
    (setRemain v s).remain = v := rfl
@[simp] theorem setRemain_divCnt (v : Word) (s : State) :
    (setRemain v s).divCnt = s.divCnt := rfl
@[simp] theorem setRemain_smpValid (v : Word) (s : State) :
    (setRemain v s).smpValid = s.smpValid := rfl
@[simp] theorem setRemain_smpData (v : Word) (s : State) :
    (setRemain v s).smpData = s.smpData := rfl
@[simp] theorem setRemain_rom (v : Word) (s : State) :
    (setRemain v s).rom = s.rom := rfl
@[simp] theorem setRemain_inputs (v : Word) (s : State) :
    (setRemain v s).inputs = s.inputs := rfl
@[simp] theorem setRemain_position (v : Word) (s : State) :
    (setRemain v s).position = s.position := rfl
@[simp] theorem setRemain_samples (v : Word) (s : State) :
    (setRemain v s).samples = s.samples := rfl
@[simp] theorem setRemain_freeCount (v : Word) (s : State) :
    (setRemain v s).freeCount = s.freeCount := rfl

/-! ### setDivCnt -/

@[simp] theorem setDivCnt_initDone (v : DivCount) (s : State) :
    (setDivCnt v s).initDone = s.initDone := rfl
@[simp] theorem setDivCnt_src (v : DivCount) (s : State) :
    (setDivCnt v s).src = s.src := rfl
@[simp] theorem setDivCnt_pinc (v : DivCount) (s : State) :
    (setDivCnt v s).pinc = s.pinc := rfl
@[simp] theorem setDivCnt_phase (v : DivCount) (s : State) :
    (setDivCnt v s).phase = s.phase := rfl
@[simp] theorem setDivCnt_gate (v : DivCount) (s : State) :
    (setDivCnt v s).gate = s.gate := rfl
@[simp] theorem setDivCnt_errUninit (v : DivCount) (s : State) :
    (setDivCnt v s).errUninit = s.errUninit := rfl
@[simp] theorem setDivCnt_errBadop (v : DivCount) (s : State) :
    (setDivCnt v s).errBadop = s.errBadop := rfl
@[simp] theorem setDivCnt_remain (v : DivCount) (s : State) :
    (setDivCnt v s).remain = s.remain := rfl
@[simp] theorem setDivCnt_divCnt (v : DivCount) (s : State) :
    (setDivCnt v s).divCnt = v := rfl
@[simp] theorem setDivCnt_smpValid (v : DivCount) (s : State) :
    (setDivCnt v s).smpValid = s.smpValid := rfl
@[simp] theorem setDivCnt_smpData (v : DivCount) (s : State) :
    (setDivCnt v s).smpData = s.smpData := rfl
@[simp] theorem setDivCnt_rom (v : DivCount) (s : State) :
    (setDivCnt v s).rom = s.rom := rfl
@[simp] theorem setDivCnt_inputs (v : DivCount) (s : State) :
    (setDivCnt v s).inputs = s.inputs := rfl
@[simp] theorem setDivCnt_position (v : DivCount) (s : State) :
    (setDivCnt v s).position = s.position := rfl
@[simp] theorem setDivCnt_samples (v : DivCount) (s : State) :
    (setDivCnt v s).samples = s.samples := rfl
@[simp] theorem setDivCnt_freeCount (v : DivCount) (s : State) :
    (setDivCnt v s).freeCount = s.freeCount := rfl

/-! ### latchSample -/

@[simp] theorem latchSample_initDone (v : Word) (s : State) :
    (latchSample v s).initDone = s.initDone := rfl
@[simp] theorem latchSample_src (v : Word) (s : State) :
    (latchSample v s).src = s.src := rfl
@[simp] theorem latchSample_pinc (v : Word) (s : State) :
    (latchSample v s).pinc = s.pinc := rfl
@[simp] theorem latchSample_phase (v : Word) (s : State) :
    (latchSample v s).phase = s.phase := rfl
@[simp] theorem latchSample_gate (v : Word) (s : State) :
    (latchSample v s).gate = s.gate := rfl
@[simp] theorem latchSample_errUninit (v : Word) (s : State) :
    (latchSample v s).errUninit = s.errUninit := rfl
@[simp] theorem latchSample_errBadop (v : Word) (s : State) :
    (latchSample v s).errBadop = s.errBadop := rfl
@[simp] theorem latchSample_remain (v : Word) (s : State) :
    (latchSample v s).remain = s.remain := rfl
@[simp] theorem latchSample_divCnt (v : Word) (s : State) :
    (latchSample v s).divCnt = s.divCnt := rfl
@[simp] theorem latchSample_smpValid (v : Word) (s : State) :
    (latchSample v s).smpValid = true := rfl
@[simp] theorem latchSample_smpData (v : Word) (s : State) :
    (latchSample v s).smpData = v := rfl
@[simp] theorem latchSample_rom (v : Word) (s : State) :
    (latchSample v s).rom = s.rom := rfl
@[simp] theorem latchSample_inputs (v : Word) (s : State) :
    (latchSample v s).inputs = s.inputs := rfl
@[simp] theorem latchSample_position (v : Word) (s : State) :
    (latchSample v s).position = s.position := rfl
@[simp] theorem latchSample_samples (v : Word) (s : State) :
    (latchSample v s).samples = s.samples := rfl
@[simp] theorem latchSample_freeCount (v : Word) (s : State) :
    (latchSample v s).freeCount = s.freeCount := rfl

/-! ### releaseSample -/

@[simp] theorem releaseSample_initDone (s : State) :
    (releaseSample s).initDone = s.initDone := rfl
@[simp] theorem releaseSample_src (s : State) :
    (releaseSample s).src = s.src := rfl
@[simp] theorem releaseSample_pinc (s : State) :
    (releaseSample s).pinc = s.pinc := rfl
@[simp] theorem releaseSample_phase (s : State) :
    (releaseSample s).phase = s.phase := rfl
@[simp] theorem releaseSample_gate (s : State) :
    (releaseSample s).gate = s.gate := rfl
@[simp] theorem releaseSample_errUninit (s : State) :
    (releaseSample s).errUninit = s.errUninit := rfl
@[simp] theorem releaseSample_errBadop (s : State) :
    (releaseSample s).errBadop = s.errBadop := rfl
@[simp] theorem releaseSample_remain (s : State) :
    (releaseSample s).remain = s.remain := rfl
@[simp] theorem releaseSample_divCnt (s : State) :
    (releaseSample s).divCnt = s.divCnt := rfl
@[simp] theorem releaseSample_smpValid (s : State) :
    (releaseSample s).smpValid = false := rfl
@[simp] theorem releaseSample_smpData (s : State) :
    (releaseSample s).smpData = s.smpData := rfl
@[simp] theorem releaseSample_rom (s : State) :
    (releaseSample s).rom = s.rom := rfl
@[simp] theorem releaseSample_inputs (s : State) :
    (releaseSample s).inputs = s.inputs := rfl
@[simp] theorem releaseSample_position (s : State) :
    (releaseSample s).position = s.position := rfl
@[simp] theorem releaseSample_samples (s : State) :
    (releaseSample s).samples = s.samples := rfl
@[simp] theorem releaseSample_freeCount (s : State) :
    (releaseSample s).freeCount = s.freeCount := rfl

/-! ### hardwareReset -/

@[simp] theorem hardwareReset_initDone (s : State) :
    (hardwareReset s).initDone = false := rfl
@[simp] theorem hardwareReset_src (s : State) :
    (hardwareReset s).src = 0 := rfl
@[simp] theorem hardwareReset_pinc (s : State) :
    (hardwareReset s).pinc = 0 := rfl
@[simp] theorem hardwareReset_phase (s : State) :
    (hardwareReset s).phase = 0 := rfl
@[simp] theorem hardwareReset_gate (s : State) :
    (hardwareReset s).gate = false := rfl
@[simp] theorem hardwareReset_errUninit (s : State) :
    (hardwareReset s).errUninit = false := rfl
@[simp] theorem hardwareReset_errBadop (s : State) :
    (hardwareReset s).errBadop = false := rfl
@[simp] theorem hardwareReset_remain (s : State) :
    (hardwareReset s).remain = 0 := rfl
@[simp] theorem hardwareReset_divCnt (s : State) :
    (hardwareReset s).divCnt = 0 := rfl
@[simp] theorem hardwareReset_smpValid (s : State) :
    (hardwareReset s).smpValid = false := rfl
@[simp] theorem hardwareReset_smpData (s : State) :
    (hardwareReset s).smpData = 0 := rfl
@[simp] theorem hardwareReset_rom (s : State) :
    (hardwareReset s).rom = s.rom := rfl
@[simp] theorem hardwareReset_inputs (s : State) :
    (hardwareReset s).inputs = s.inputs := rfl
@[simp] theorem hardwareReset_position (s : State) :
    (hardwareReset s).position = s.position := rfl
@[simp] theorem hardwareReset_samples (s : State) :
    (hardwareReset s).samples = s.samples := rfl
@[simp] theorem hardwareReset_freeCount (s : State) :
    (hardwareReset s).freeCount = s.freeCount := rfl

end Sys2Proof.Machine
end

