-- ==== Sys2Proof/Laws/Ops.lean ====
section
/-! SUPPORT. For each shared operation, what it can do, said once. -/

namespace Sys2Proof.Machine

/-! ### The operands and the increment -/

/-- The clamp in terms of max and min (R92). -/
theorem clampRate_eq (sr : Int) : clampRate sr = (max 1 (min sr 192000)).toNat := by
  unfold clampRate clamp srMin srMax
  congr 1
  split <;> [skip; split] <;> omega

/-- The clamped rate lies in [1, 192000] (R92). -/
theorem clampRate_range (sr : Int) : 1 ≤ clampRate sr ∧ clampRate sr ≤ 192000 := by
  rw [clampRate_eq]
  omega

/-- SRC holds the clamped rate unchanged: 18 bits suffice (R26). -/
theorem src_of_clampRate (sr : Int) : (BitVec.ofNat 18 (clampRate sr)).toNat = clampRate sr := by
  have h := (clampRate_range sr).2
  rw [BitVec.toNat_ofNat]
  omega

/-- ComputePinc on its domain (R94). -/
theorem computePinc_eq {c : Nat} (h : 1 ≤ c) :
    computePinc c = BitVec.ofNat 32 (440 * 2 ^ 32 / c) := by
  have hc : c ≠ 0 := by omega
  simp [computePinc, hc, freq]

/-! ### Ticks -/

/-- All ROMs are the same (R55): the type has one value. -/
theorem rom_unique (a b : Rom) : a = b := by
  cases a
  cases b
  rfl

/-- The candidate phase depends on PHASE, PINC and GATE only (R110). -/
theorem candidatePhase_congr {s t : State} (hp : s.phase = t.phase) (hi : s.pinc = t.pinc)
    (hg : s.gate = t.gate) : candidatePhase s = candidatePhase t := by
  simp only [candidatePhase, hp, hi, hg]

/-- The sample depends on PHASE, PINC and GATE only (R110). -/
theorem tickSample_congr {s t : State} (hp : s.phase = t.phase) (hi : s.pinc = t.pinc)
    (hg : s.gate = t.gate) : tickSample s = tickSample t := by
  simp only [tickSample, candidatePhase_congr hp hi hg, rom_unique s.rom t.rom]

/-- The candidate phase of the explicit form (R112). -/
theorem candidatePhase_eq (s : State) :
    candidatePhase s = if s.gate then s.phase + s.pinc else 0 := rfl

/-- Bits 31:16 of a phase are its quotient by 65536 (R112). -/
theorem tableIndex_eq (c : Word) : tableIndex c = BitVec.ofNat 16 (c.toNat / 65536) := by
  apply BitVec.eq_of_toNat_eq
  simp [tableIndex, Nat.shiftRight_eq_div_pow]

/-- One more tick is one tick at the end. -/
theorem repeatTicks_succ (n : Nat) (s : State) :
    repeatTicks (n + 1) s = doTick (repeatTicks n s) := by
  induction n generalizing s with
  | zero => rfl
  | succ n ih => exact ih (doTick s)

/-- Ticks as an iterate. -/
theorem repeatTicks_eq_iterate (n : Nat) (s : State) : repeatTicks n s = doTick^[n] s := by
  induction n generalizing s with
  | zero => rfl
  | succ n ih => exact ih (doTick s)

/-- What ticks leave unchanged (R110). -/
theorem repeatTicks_frame (n : Nat) (s : State) :
    computeFrame s (repeatTicks n s) ∧ (repeatTicks n s).errUninit = s.errUninit := by
  induction n with
  | zero => simp [repeatTicks, computeFrame]
  | succ n ih => simpa [repeatTicks_succ, computeFrame] using ih

/-- GATE after at least one tick (R24). -/
theorem repeatTicks_gate (n : Nat) (s : State) : (repeatTicks (n + 1) s).gate = true := by
  simp [repeatTicks_succ]

/-- Ticks only append to the output, one sample each (R110). -/
theorem repeatTicks_samples (n : Nat) (s : State) :
    ∃ l, (repeatTicks n s).samples = s.samples ++ l ∧ l.length = n := by
  induction n with
  | zero => exact ⟨[], by simp [repeatTicks]⟩
  | succ n ih =>
    obtain ⟨l, h, hl⟩ := ih
    exact ⟨l ++ [tickSample (repeatTicks n s)], by simp [repeatTicks_succ, h], by simp [hl]⟩

/-! ### Commands -/

/-- A word that decodes to a command runs the command (R90). -/
theorem acceptCommand_ok {w : CmdWord} {i : Instr} (h : decode w = .ok i) (s : State) :
    acceptCommand w s = exec i (advancePosition s) := by
  simp only [acceptCommand, h]

/-- A reserved word has its one effect (R76). -/
theorem acceptCommand_reserved {w : CmdWord} {op : BitVec 4}
    (h : decode w = .error (.reservedOp op)) (s : State) :
    acceptCommand w s = .next (setErrBadop (advancePosition s)) := by
  simp only [acceptCommand, h, acceptReserved]

/-- BLOCK by its three cases (R121). -/
theorem execBlock_cases (n : Int) (s : State) :
    (n ≤ 0 ∧ exec (.block n) s = .next s) ∨
    (0 < n ∧ s.initDone = true ∧ exec (.block n) s = .next (repeatTicks n.toNat s)) ∨
    (0 < n ∧ s.initDone = false ∧ exec (.block n) s = .next (setErrUninit s)) := by
  by_cases hn : n ≤ 0
  · exact .inl ⟨hn, by simp [exec, execBlock, hn]⟩
  · refine .inr ?_
    cases hi : s.initDone
    · exact .inr ⟨by omega, rfl, by simp [exec, execBlock, hn, hi]⟩
    · exact .inl ⟨by omega, rfl, by simp [exec, execBlock, hn, hi, blockCount]⟩

/-- What accepting a command word can do, one case per row of R72. -/
theorem acceptCommand_cases (w : CmdWord) (s : State) :
    (decode w = .ok .nop ∧ acceptCommand w s = .next (advancePosition s)) ∨
    (∃ sr, decode w = .ok (.init sr) ∧ acceptCommand w s =
      .next (setPinc (computePinc (clampRate sr)) (loadRate sr (advancePosition s)))) ∨
    (decode w = .ok .reset ∧ acceptCommand w s = .next (restart (advancePosition s))) ∨
    (decode w = .ok .tick ∧ s.initDone = true ∧
      acceptCommand w s = .next (doTick (advancePosition s))) ∨
    (decode w = .ok .tick ∧ s.initDone = false ∧
      acceptCommand w s = .next (setErrUninit (advancePosition s))) ∨
    (∃ n, decode w = .ok (.block n) ∧ n ≤ 0 ∧ acceptCommand w s = .next (advancePosition s)) ∨
    (∃ n, decode w = .ok (.block n) ∧ 0 < n ∧ s.initDone = true ∧
      acceptCommand w s = .next (repeatTicks n.toNat (advancePosition s))) ∨
    (∃ n, decode w = .ok (.block n) ∧ 0 < n ∧ s.initDone = false ∧
      acceptCommand w s = .next (setErrUninit (advancePosition s))) ∨
    (decode w = .error (.reservedOp (opField w)) ∧ 5 ≤ (opField w).toNat ∧
      acceptCommand w s = .next (setErrBadop (advancePosition s))) := by
  rcases decode_cases w with ⟨h, -⟩ | ⟨h, -⟩ | ⟨h, -⟩ | ⟨h, -⟩ | ⟨h, -⟩ | ⟨h, ho⟩
  · exact .inl ⟨h, acceptCommand_ok h s⟩
  · exact .inr (.inl ⟨_, h, acceptCommand_ok h s⟩)
  · exact .inr (.inr (.inl ⟨h, acceptCommand_ok h s⟩))
  · cases hi : s.initDone
    · exact .inr (.inr (.inr (.inr (.inl ⟨h, rfl, by simp [acceptCommand_ok h, exec, execTick, hi]⟩))))
    · exact .inr (.inr (.inr (.inl ⟨h, rfl, by simp [acceptCommand_ok h, exec, execTick, hi]⟩)))
  · refine .inr (.inr (.inr (.inr (.inr ?_))))
    rcases execBlock_cases (s32 (argField w)) (advancePosition s) with
      ⟨hn, e⟩ | ⟨hn, hi, e⟩ | ⟨hn, hi, e⟩
    · exact .inl ⟨_, h, hn, (acceptCommand_ok h s).trans e⟩
    · exact .inr (.inl ⟨_, h, hn, hi, (acceptCommand_ok h s).trans e⟩)
    · exact .inr (.inr (.inl ⟨_, h, hn, hi, (acceptCommand_ok h s).trans e⟩))
  · exact .inr (.inr (.inr (.inr (.inr (.inr (.inr (.inr ⟨h, ho, acceptCommand_reserved h s⟩)))))))

/-- Accepting a command word always goes on (R74, R130). -/
theorem acceptCommand_next (w : CmdWord) (s : State) : ∃ t, acceptCommand w s = .next t := by
  rcases acceptCommand_cases w s with ⟨-, h⟩ | ⟨_, -, h⟩ | ⟨-, h⟩ | ⟨-, -, h⟩ | ⟨-, -, h⟩ |
    ⟨_, -, -, h⟩ | ⟨_, -, -, -, h⟩ | ⟨_, -, -, -, h⟩ | ⟨-, -, h⟩ <;> exact ⟨_, h⟩

end Sys2Proof.Machine
end

