-- ==== Sys2Proof/Laws/Cycle.lean ====
section
/-! SUPPORT. What a clock edge can do, said once: reset, an acceptance, a block tick, a busy edge of INIT
or an idle edge. -/

namespace Sys2Proof.Machine

@[simp] theorem transferSample_initDone (p : Pins) (s : State) :
    (transferSample p s).initDone = s.initDone := by unfold transferSample; split <;> rfl
@[simp] theorem transferSample_src (p : Pins) (s : State) :
    (transferSample p s).src = s.src := by unfold transferSample; split <;> rfl
@[simp] theorem transferSample_pinc (p : Pins) (s : State) :
    (transferSample p s).pinc = s.pinc := by unfold transferSample; split <;> rfl
@[simp] theorem transferSample_phase (p : Pins) (s : State) :
    (transferSample p s).phase = s.phase := by unfold transferSample; split <;> rfl
@[simp] theorem transferSample_gate (p : Pins) (s : State) :
    (transferSample p s).gate = s.gate := by unfold transferSample; split <;> rfl
@[simp] theorem transferSample_errUninit (p : Pins) (s : State) :
    (transferSample p s).errUninit = s.errUninit := by unfold transferSample; split <;> rfl
@[simp] theorem transferSample_errBadop (p : Pins) (s : State) :
    (transferSample p s).errBadop = s.errBadop := by unfold transferSample; split <;> rfl
@[simp] theorem transferSample_remain (p : Pins) (s : State) :
    (transferSample p s).remain = s.remain := by unfold transferSample; split <;> rfl
@[simp] theorem transferSample_divCnt (p : Pins) (s : State) :
    (transferSample p s).divCnt = s.divCnt := by unfold transferSample; split <;> rfl
@[simp] theorem transferSample_smpValid (p : Pins) (s : State) :
    (transferSample p s).smpValid = s.smpValid := by unfold transferSample; split <;> rfl
@[simp] theorem transferSample_smpData (p : Pins) (s : State) :
    (transferSample p s).smpData = s.smpData := by unfold transferSample; split <;> rfl
@[simp] theorem transferSample_rom (p : Pins) (s : State) :
    (transferSample p s).rom = s.rom := by unfold transferSample; split <;> rfl
@[simp] theorem transferSample_inputs (p : Pins) (s : State) :
    (transferSample p s).inputs = s.inputs := by unfold transferSample; split <;> rfl
@[simp] theorem transferSample_position (p : Pins) (s : State) :
    (transferSample p s).position = s.position := by unfold transferSample; split <;> rfl
@[simp] theorem transferSample_freeCount (p : Pins) (s : State) :
    (transferSample p s).freeCount = s.freeCount := by unfold transferSample; split <;> rfl
@[simp] theorem transferSample_samples (p : Pins) (s : State) :
    (transferSample p s).samples =
      if s.smpValid = true ∧ p.smpReady = true then s.samples ++ [s.smpData] else s.samples := by
  unfold transferSample outFire
  cases s.smpValid <;> cases p.smpReady <;> rfl

/-- When a command is accepted (R160). -/
theorem cmdFire_iff (p : Pins) (s : State) :
    cmdFire p s = true ↔ p.cmdValid = true ∧ p.rst = false ∧ s.remain = 0 ∧ s.divCnt = 0 ∧
      (s.smpValid = false ∨ p.smpReady = true) := by
  simp [cmdFire, cmdReady, outFree, and_assoc]

/-- When a BLOCK in progress performs a tick (R162). -/
theorem blkTick_iff (p : Pins) (s : State) :
    blkTick p s = true ↔ s.remain ≠ 0 ∧ (s.smpValid = false ∨ p.smpReady = true) := by
  simp [blkTick, outFree]

/-- The transfer of a waiting sample does not change whether a command is accepted. -/
@[simp] theorem cmdFire_transferSample (p q : Pins) (s : State) :
    cmdFire p (transferSample q s) = cmdFire p s := by
  simp [cmdFire, cmdReady, outFree]

/-- The transfer of a waiting sample does not change whether a BLOCK ticks. -/
@[simp] theorem blkTick_transferSample (p q : Pins) (s : State) :
    blkTick p (transferSample q s) = blkTick p s := by
  simp [blkTick, outFree]

/-- An edge with rst = 1 (R150). -/
theorem clockEdge_rst (k : DivCount) {p : Pins} (s : State) (h : p.rst = true) :
    clockEdge k p s = hardwareReset s := by
  simp [clockEdge, h]

/-- An edge that accepts a command (R162). -/
theorem clockEdge_fire (k : DivCount) {p : Pins} {s : State} (h : cmdFire p s = true) :
    clockEdge k p s =
      outputSide (outFire p s)
        (acceptAtEdge k p.cmdWord (advancePosition (transferSample p s))).2
        (acceptAtEdge k p.cmdWord (advancePosition (transferSample p s))).1 := by
  have h' := (cmdFire_iff p s).1 h
  simp [clockEdge, runEdge, commandSide, h, h'.2.1, h'.2.2.2.1]

/-- An edge at which a BLOCK ticks (R162). -/
theorem clockEdge_blockTick (k : DivCount) {p : Pins} {s : State} (hr : p.rst = false)
    (hd : s.divCnt = 0) (h : blkTick p s = true) :
    clockEdge k p s =
      latchSample (tickSample s)
        (setRemain (s.remain - 1) (advancePhase (transferSample p s))) := by
  have hb := (blkTick_iff p s).1 h
  have hf : cmdFire p s = false := by
    rw [← Bool.not_eq_true, cmdFire_iff]
    tauto
  simp [clockEdge, runEdge, commandSide, hr, hf, h, hd, blockTick, outputSide, tickSample,
    candidatePhase]

/-- A busy edge of an INIT (R161). -/
theorem clockEdge_divStep (k : DivCount) {p : Pins} {s : State} (hr : p.rst = false)
    (hd : s.divCnt ≠ 0) (hz : s.remain = 0) :
    clockEdge k p s =
      outputSide (outFire p s) none (divStep (transferSample p s)) := by
  have hf : cmdFire p s = false := by
    rw [← Bool.not_eq_true, cmdFire_iff]
    tauto
  have hb : blkTick p s = false := by
    rw [← Bool.not_eq_true, blkTick_iff]
    tauto
  have hd' : ¬s.divCnt = 0#6 := hd
  simp [clockEdge, runEdge, commandSide, hr, hf, hb, hd']

/-- An edge at which the command side does nothing (R143, R162). -/
theorem clockEdge_idle (k : DivCount) {p : Pins} {s : State} (hr : p.rst = false)
    (hd : s.divCnt = 0) (hf : cmdFire p s = false) (hb : blkTick p s = false) :
    clockEdge k p s = outputSide (outFire p s) none (transferSample p s) := by
  have hd' : s.divCnt = 0#6 := hd
  simp [clockEdge, runEdge, commandSide, hr, hf, hb, hd']

/-- What an edge is, in a state where a BLOCK and a busy INIT are not both in progress (R31 item 4). -/
theorem clockEdge_cases (k : DivCount) (p : Pins) (s : State) (h : s.remain ≠ 0 → s.divCnt = 0) :
    (p.rst = true ∧ clockEdge k p s = hardwareReset s) ∨
    (p.rst = false ∧ cmdFire p s = true) ∨
    (p.rst = false ∧ cmdFire p s = false ∧ s.divCnt = 0 ∧ blkTick p s = true) ∨
    (p.rst = false ∧ cmdFire p s = false ∧ s.divCnt ≠ 0 ∧ s.remain = 0) ∨
    (p.rst = false ∧ cmdFire p s = false ∧ s.divCnt = 0 ∧ blkTick p s = false) := by
  cases hr : p.rst
  · cases hf : cmdFire p s
    · by_cases hd : s.divCnt = 0
      · cases hb : blkTick p s <;> simp [hd]
      · have hz : s.remain = 0 := by
          by_contra hz
          exact hd (h hz)
        exact .inr (.inr (.inr (.inl ⟨rfl, rfl, hd, hz⟩)))
    · simp
  · simp [clockEdge, hr]

end Sys2Proof.Machine
end

