-- ==== Sys2Proof/Laws/PerInstr.lean ====
section
/-! SUPPORT. Statements made command by command. OpcodeRow: the word of a command lies in the command's
row of R73 (spec/30_encoding.md). -/

namespace Sys2Proof.Laws.OpcodeRow

/-- Under the mask of R73 the command's word is the match of its row. -/
def Statement (i : Instr) : Prop :=
  encode i &&& opMask = i.matchWord

theorem of_opcode {i : Instr} (h : packWord i.opcode 0 = i.matchWord) : Statement i := by
  unfold Statement
  rw [and_opMask, encode, opField_packWord, h]

theorem nop : Statement .nop := of_opcode (by decide)

theorem init (sr : Int) : Statement (.init sr) :=
  of_opcode (by change packWord 0x1 0 = (0x100000000 : CmdWord); decide)

theorem reset : Statement .reset := of_opcode (by decide)

theorem tick : Statement .tick := of_opcode (by decide)

theorem block (n : Int) : Statement (.block n) :=
  of_opcode (by change packWord 0x4 0 = (0x400000000 : CmdWord); decide)

end Sys2Proof.Laws.OpcodeRow
end

