-- ==== Sys2Proof/Laws/Rom.lean ====
section
/-! SUPPORT. What the sine fraction of Machine/Rom.lean is over the reals, and how the ROM's words come
from the first quarter of the cycle. -/

namespace Sys2Proof.Machine

/-- One Horner step over the reals: nothing is cut off by the natural subtraction, and the result is
again a fraction in [0, 1]. -/
theorem sineHornerStep_value {x2 d2 m n d : Nat} (hx : x2 ≤ 6 * d2) (h2 : 0 < d2) (hm : 6 ≤ m)
    (hn : n ≤ d) (hd : 0 < d) :
    (sineHornerStep x2 d2 (n, d) m).1 ≤ (sineHornerStep x2 d2 (n, d) m).2 ∧
    0 < (sineHornerStep x2 d2 (n, d) m).2 ∧
    ((sineHornerStep x2 d2 (n, d) m).1 : ℝ) / (sineHornerStep x2 d2 (n, d) m).2 =
      1 - (x2 : ℝ) / d2 * ((n : ℝ) / d) / m := by
  have hle : x2 * n ≤ d2 * m * d :=
    calc x2 * n ≤ 6 * d2 * d := Nat.mul_le_mul hx hn
      _ ≤ m * d2 * d := Nat.mul_le_mul_right d (Nat.mul_le_mul_right d2 hm)
      _ = d2 * m * d := by ring
  have hpos : 0 < d2 * m * d := by positivity
  refine ⟨Nat.sub_le _ _, hpos, ?_⟩
  simp only [sineHornerStep]
  rw [Nat.cast_sub hle]
  have h2' : (d2 : ℝ) ≠ 0 := by positivity
  have hd' : (d : ℝ) ≠ 0 := by positivity
  have hm' : (m : ℝ) ≠ 0 := by positivity
  push_cast
  field_simp

/-- The sine fraction is the Taylor polynomial of degree 15, for an angle x/d up to 2. -/
theorem sineFraction_value {x d : Nat} (hd : 0 < d) (hx : x ≤ 2 * d) :
    0 < (sineFraction x d).2 ∧
    ∀ y : ℝ, y = (x : ℝ) / d →
      ((sineFraction x d).1 : ℝ) / (sineFraction x d).2 =
        y - y ^ 3 / 6 + y ^ 5 / 120 - y ^ 7 / 5040 + y ^ 9 / 362880 - y ^ 11 / 39916800 +
          y ^ 13 / 6227020800 - y ^ 15 / 1307674368000 := by
  have h2 : 0 < d * d := by positivity
  have hx2 : x * x ≤ 6 * (d * d) := by nlinarith
  have step : ∀ (acc : Nat × Nat) (m : Nat), 6 ≤ m → acc.1 ≤ acc.2 ∧ 0 < acc.2 →
      ((sineHornerStep (x * x) (d * d) acc m).1 ≤ (sineHornerStep (x * x) (d * d) acc m).2 ∧
        0 < (sineHornerStep (x * x) (d * d) acc m).2) ∧
      ((sineHornerStep (x * x) (d * d) acc m).1 : ℝ) / (sineHornerStep (x * x) (d * d) acc m).2 =
        1 - ((x * x : ℕ) : ℝ) / ((d * d : ℕ) : ℝ) * ((acc.1 : ℝ) / acc.2) / m := by
    intro acc m hm ha
    obtain ⟨a, b, c⟩ := sineHornerStep_value hx2 h2 hm ha.1 ha.2
    exact ⟨⟨a, b⟩, c⟩
  obtain ⟨p1, e1⟩ := step (1, 1) (14 * 15) (by norm_num) (by norm_num)
  obtain ⟨p2, e2⟩ := step _ (12 * 13) (by norm_num) p1
  obtain ⟨p3, e3⟩ := step _ (10 * 11) (by norm_num) p2
  obtain ⟨p4, e4⟩ := step _ (8 * 9) (by norm_num) p3
  obtain ⟨p5, e5⟩ := step _ (6 * 7) (by norm_num) p4
  obtain ⟨p6, e6⟩ := step _ (4 * 5) (by norm_num) p5
  obtain ⟨p7, e7⟩ := step _ (2 * 3) (by norm_num) p6
  simp only [sineFraction, sineDivisors, List.foldl_cons, List.foldl_nil]
  refine ⟨Nat.mul_pos hd p7.2, fun y hy => ?_⟩
  have hyy : ((x * x : ℕ) : ℝ) / ((d * d : ℕ) : ℝ) = y * y := by
    rw [hy]
    push_cast
    have : (d : ℝ) ≠ 0 := by positivity
    field_simp
  push_cast [Nat.cast_mul]
  rw [mul_div_mul_comm, ← hy, e7, e6, e5, e4, e3, e2, e1, hyy]
  push_cast
  ring

/-- The ROM's word before it is cut to 16 bits, by the quarter its counter lies in (R51). -/
theorem sineCode_quarters {r : Nat} (h : r < 16384) :
    sineCode r = quarterSine r ∧ sineCode (16384 + r) = quarterSine (16384 - r) ∧
    sineCode (32768 + r) = -(quarterSine r : Int) ∧
    sineCode (49152 + r) = -(quarterSine (16384 - r) : Int) := by
  have h0 : r / 16384 = 0 := by omega
  have h1 : (16384 + r) / 16384 = 1 := by omega
  have h2 : (32768 + r) / 16384 = 2 := by omega
  have h3 : (49152 + r) / 16384 = 3 := by omega
  have m0 : r % 16384 = r := by omega
  have m1 : (16384 + r) % 16384 = r := by omega
  have m2 : (32768 + r) % 16384 = r := by omega
  have m3 : (49152 + r) % 16384 = r := by omega
  simp only [sineCode, h0, h1, h2, h3, m0, m1, m2, m3, and_self]

end Sys2Proof.Machine
end

