-- ==== Sys2Proof/Laws/Run.lean ====
section
/-! SUPPORT. What one step can do, and the small facts of runs. -/

namespace Sys2Proof.Machine

/-- A step always goes on, to nextState. -/
theorem step_eq_nextState (s : State) : step s = .next (nextState s) := by
  have h : ∃ t, step s = .next t := by
    unfold step performNext
    split
    · exact ⟨_, rfl⟩
    · exact ⟨_, rfl⟩
    · split
      · exact acceptCommand_next _ _
      · exact ⟨_, rfl⟩
  obtain ⟨t, h⟩ := h
  simp only [nextState, h]

/-- Everything a step can be: a scheduled edge, an accepted command, or an idle edge, which accepts
nothing and is no reset. -/
theorem nextState_cases (s : State) :
    (∃ p rest, s.inputs = .edge p :: rest ∧
      nextState s = clockEdge Config.initCyclesLessOne p (setInputs rest s) ∧
      acceptedByStep s = (if cmdFire p s then some p.cmdWord else none) ∧ resetStep s = p.rst) ∨
    (∃ w rest, s.inputs = .command w :: rest ∧ quiescent s = true ∧
      acceptCommand w (setInputs rest s) = .next (nextState s) ∧
      acceptedByStep s = some w ∧ resetStep s = false) ∨
    (nextState s = clockEdge Config.initCyclesLessOne idlePins s ∧ acceptedByStep s = none ∧
      resetStep s = false) := by
  rcases h : s.inputs with _ | ⟨_ | p, rest⟩
  · refine .inr (.inr ⟨?_, ?_, ?_⟩) <;>
      simp [nextState, step, performNext, acceptedByStep, resetStep, h, idleEdge]
  · rename_i w
    cases hq : quiescent s
    · refine .inr (.inr ⟨?_, ?_, ?_⟩) <;>
        simp [nextState, step, performNext, acceptedByStep, resetStep, h, hq, idleEdge]
    · refine .inr (.inl ⟨w, rest, rfl, rfl, ?_, ?_, ?_⟩)
      · rw [← step_eq_nextState]
        simp [step, performNext, h, hq]
      · simp [acceptedByStep, h, hq]
      · simp [resetStep, h]
  · refine .inl ⟨p, rest, rfl, ?_, ?_, ?_⟩ <;>
      simp [nextState, step, performNext, acceptedByStep, resetStep, h]

/-- A run that has ended is found at once. -/
theorem endOfRun_of_ended {left : List CmdWord} {s : State} (h : runEnded left s = true) (n : Nat)
    (begun : Bool) : endOfRun n begun left s = some s := by
  cases n <;> simp [endOfRun, h]

/-- Everything an end found in n + 1 steps can be: here, or after a step that accepts no word, or after
one that accepts the next word of the sequence. -/
theorem endOfRun_succ_cases {n : Nat} {begun : Bool} {left : List CmdWord} {s t : State}
    (h : endOfRun (n + 1) begun left s = some t) :
    (left = [] ∧ quiescent s = true ∧ t = s) ∨
    ((begun && resetStep s) = false ∧ acceptedByStep s = none ∧
      endOfRun n begun left (nextState s) = some t) ∨
    (∃ w rest, left = w :: rest ∧ (begun && resetStep s) = false ∧ acceptedByStep s = some w ∧
      endOfRun n true rest (nextState s) = some t) := by
  unfold endOfRun at h
  by_cases he : runEnded left s = true
  · rw [if_pos he] at h
    simp only [runEnded, Bool.and_eq_true, List.isEmpty_iff] at he
    exact .inl ⟨he.1, he.2, (Option.some.inj h).symm⟩
  · rw [if_neg he] at h
    cases hr : begun && resetStep s
    · rw [hr, if_neg Bool.false_ne_true] at h
      rcases ha : acceptedByStep s with _ | w
      · rw [ha] at h
        exact .inr (.inl ⟨rfl, rfl, h⟩)
      · rcases left with _ | ⟨v, rest⟩
        · simp [ha] at h
        · simp only [ha] at h
          by_cases hv : v = w
          · rw [if_pos hv] at h
            exact .inr (.inr ⟨v, rest, rfl, rfl, hv ▸ rfl, h⟩)
          · simp [hv] at h
    · simp [hr] at h

/-- The end of a run meets R169's conditions on the registers. -/
theorem endOfRun_quiescent {n : Nat} {begun : Bool} {left : List CmdWord} {s t : State}
    (h : endOfRun n begun left s = some t) : quiescent t = true := by
  induction n generalizing begun left s with
  | zero =>
    simp only [endOfRun, runEnded, Option.ite_none_right_eq_some, Option.some.injEq,
      Bool.and_eq_true] at h
    exact h.2 ▸ h.1.2
  | succ n ih =>
    obtain ⟨_, hq, e⟩ | ⟨_, _, h'⟩ | ⟨_, _, _, _, _, h'⟩ := endOfRun_succ_cases h
    · exact e ▸ hq
    · exact ih h'
    · exact ih h'

end Sys2Proof.Machine
end

