-- ==== Sys2Proof/Tests/Slice0.lean ====
section
/-! SUPPORT. The model's own tests. Expected values are the spec's: the words of R80 and section 2.1 of
spec/95_test_vectors.md, the vectors of its sections 2.2 to 2.5, R54 and R95. After them, for each
obligation with hypotheses, values that meet them. -/

namespace Sys2Proof.Tests

open Sys2Proof.Machine Host

/-- The block Ready at 44100 Hz, no tick yet (R93's example). -/
def ready44100 : State :=
  { State.reset with initDone := true, src := 44100, pinc := 0x028DDFB9 }

/-- The block Ready at 48000 Hz after ticks that left the given phase. -/
def ready48000 (phase : Word) : State :=
  { State.reset with initDone := true, src := 48000, pinc := 0x0258BF25, phase := phase, gate := true }

/-- A BLOCK in progress at 48000 Hz with a sample waiting (section 2.5). -/
def blockInProgress (remain phase data : Word) : State :=
  { ready48000 phase with remain := remain, smpValid := true, smpData := data }

/-- An INIT 48000 whose increment is still being computed (section 2.5). -/
def initInProgress (divCnt : DivCount) : State :=
  { State.reset with initDone := true, src := 48000, divCnt := divCnt }

/-- Pins without reset. -/
def offer (valid : Bool) (w : CmdWord) (ready : Bool) : Pins :=
  ⟨false, valid, w, ready⟩

/-- Pins with reset. -/
def resetPins : Pins :=
  ⟨true, true, 0x300000000, true⟩

/-- The next state of an outcome, if there is one. -/
def nextOf (o : Outcome State Fault Refusal) : Option State :=
  match o with
  | .next t => some t
  | .fault _ => none
  | .refused _ => none

/-! ### Well-formedness: an ill-formed term for each check -/

theorem test_wellFormed_refuses_init_above : (Instr.init 2147483648).wellFormed = false := by decide
theorem test_wellFormed_refuses_init_below : (Instr.init (-2147483649)).wellFormed = false := by decide
theorem test_wellFormed_refuses_block_above : (Instr.block 2147483648).wellFormed = false := by decide
theorem test_wellFormed_refuses_block_below : (Instr.block (-2147483649)).wellFormed = false := by
  decide

/-! ### Decoding: words of section 2.1 -/

theorem test_decode_nop : decode 0x000000000 = .ok .nop := by decide
theorem test_decode_nop_ignores_arg : decode 0x0DEADBEEF = .ok .nop := by decide
theorem test_decode_init : decode 0x10000AC44 = .ok (.init 44100) := by decide
theorem test_decode_init_negative : decode 0x1FFFFFFFB = .ok (.init (-5)) := by decide
theorem test_decode_reset : decode 0x200000000 = .ok .reset := by decide
theorem test_decode_tick : decode 0x300000001 = .ok .tick := by decide
theorem test_decode_block : decode 0x4FFFFFFFD = .ok (.block (-3)) := by decide
theorem test_decode_block_least : decode 0x480000000 = .ok (.block (-2147483648)) := by decide
theorem test_decode_reserved_first : decode 0x500000000 = .error (.reservedOp 5) := by decide
theorem test_decode_reserved_last : decode 0xFFFFFFFFF = .error (.reservedOp 15) := by decide
theorem test_encode_init : encode (.init 44100) = 0x10000AC44 := by decide
theorem test_encode_block : encode (.block (-3)) = 0x4FFFFFFFD := by decide
theorem test_decodeTableWord_init : decodeTableWord 40 0x100000000 = some (.init 0) := by decide
theorem test_decodeTableWord_reserved : decodeTableWord 40 0x700001234 = none := by decide

/-! ### The ROM: words of R54 and section 2.4 -/

theorem test_rom_first : romRead .sineTable 0 = 3 := by decide
theorem test_rom_653 : romRead .sineTable 653 = 2053 := by decide
theorem test_rom_below_peak : romRead .sineTable 16325 = 32766 := by decide
theorem test_rom_peak : romRead .sineTable 16383 = 32767 := by decide
theorem test_rom_zero : romRead .sineTable 32767 = 0 := by decide
theorem test_rom_trough : romRead .sineTable 49151 = -32767 := by decide
theorem test_rom_64733 : romRead .sineTable 64733 = -2517 := by decide
theorem test_rom_last : romRead .sineTable 65535 = 0 := by decide

/-! ### The commands: sections 2.2 and 2.3 -/

theorem test_nop_leaves_all : nextOf (exec .nop ready44100) = some ready44100 := by decide
theorem test_init_clamps_above :
    (nextOf (exec (.init 192001) State.reset)).map (fun t => (t.src, t.pinc, statusWord t)) =
      some (192000, 0x00962FC9, 1) := by decide
theorem test_init_again_at_300 :
    (nextOf (exec (.init 300) (ready48000 0x070A3D6F))).map
        (fun t => (t.src, t.pinc, t.phase, t.gate)) =
      some (300, 0x77777777, 0, false) := by decide
theorem test_reset_in_ready :
    (nextOf (exec .reset (ready48000 0x070A3D6F))).map (fun t => (t.phase, t.pinc, statusWord t)) =
      some (0, 0x0258BF25, 1) := by decide
theorem test_tick_wraps :
    (nextOf (exec .tick { ready44100 with phase := 0xFF6B6444, gate := true })).map
        (fun t => (t.phase, t.samples)) =
      some (0x01F943FD, [10412717]) := by decide
theorem test_tick_uninitialized :
    (nextOf (exec .tick State.reset)).map (fun t => (statusWord t, t.samples)) =
      some (0x10, []) := by decide
theorem test_block_four_at_48000 :
    (nextOf (exec (.block 4) { ready48000 0 with gate := false })).map
        (fun t => (t.phase, t.samples)) =
      some (0x070A3D6F, [19659, 12365511, 24691704, 36932708]) := by decide
theorem test_block_negative_is_noop :
    nextOf (exec (.block (-3)) State.reset) = some State.reset := by decide

/-! ### The step -/

theorem test_step_runs_init :
    (nextOf (step (State.reset.withFetchWord 40 0x10000AC44))).map
        (fun t => (t.src, t.pinc, t.position, t.inputs)) =
      some (44100, 0x028DDFB9, 1, []) := by decide
theorem test_step_takes_reserved_word :
    (nextOf (step (State.reset.withFetchWord 40 0x700001234))).map
        (fun t => (statusWord t, t.samples, runFaults t)) =
      some (0x20, [], [.errBadop]) := by decide
theorem test_step_idle : nextOf (step State.reset) = some State.reset := by decide

/-! ### Clock edges: rows of section 2.5, INIT_CYCLES = 3 -/

theorem test_edge1_accepts_init :
    let t := clockEdge 2 (offer true 0x10000BB80 true) State.reset
    (t.divCnt, t.src, t.initDone, t.position) = (2, 48000, true, 1) := by decide
theorem test_edge2_busy :
    let t := clockEdge 2 (offer true 0x400000003 true) (initInProgress 2)
    (t.divCnt, t.position, cmdReady (offer true 0x400000003 true) t) = (1, 0, false) := by decide
theorem test_edge3_writes_increment :
    let t := clockEdge 2 (offer true 0x400000003 true) (initInProgress 1)
    (t.divCnt, t.pinc) = (0, 0x0258BF25) := by decide
theorem test_edge4_accepts_block :
    let t := clockEdge 2 (offer true 0x400000003 true) { ready48000 0 with gate := false }
    (t.remain, t.smpValid, t.phase) = (3, false, 0) := by decide
theorem test_edge7_stalls :
    clockEdge 2 (offer true 0x300000000 false) (blockInProgress 1 0x0258BF25 0x00BCAEC7) =
      blockInProgress 1 0x0258BF25 0x00BCAEC7 := by decide
theorem test_edge9_ticks_and_transfers :
    let t := clockEdge 2 (offer true 0x300000000 true) (blockInProgress 1 0x0258BF25 0x00BCAEC7)
    (t.remain, t.smpValid, t.smpData, t.phase, t.samples, t.position) =
      (0, true, 0x0178C3F8, 0x04B17E4A, [0x00BCAEC7], 0) := by decide
theorem test_edge10_accepts_tick :
    let t := clockEdge 2 (offer true 0x300000000 true) (blockInProgress 0 0x04B17E4A 0x0178C3F8)
    (t.smpValid, t.smpData, t.phase, t.samples, t.position) =
      (true, 0x02338C64, 0x070A3D6F, [0x0178C3F8], 1) := by decide
theorem test_edge11_accepts_nop :
    let t := clockEdge 2 (offer true 0x000000000 true) (blockInProgress 0 0x070A3D6F 0x02338C64)
    (t.smpValid, t.smpData, t.samples) = (false, 0x02338C64, [0x02338C64]) := by decide
theorem test_edge_reset_overrides :
    clockEdge 2 resetPins (blockInProgress 3 0x0258BF25 0x00BCAEC7) = State.reset := by decide

/-! ### The assembler: R78 to R80 -/

theorem test_assemble_block :
    assembleText ['b', 'l', 'o', 'c', 'k', ' ', '-', '3', ';', ' ', 'x'] = .ok [0x4FFFFFFFD] := by
  decide
theorem test_assemble_word :
    assembleText ['.', 'w', 'o', 'r', 'd', ' ', '7', ',', ' ', '0', 'x', '1', '2', '3', '4'] =
      .ok [0x700001234] := by decide
theorem test_assemble_rejects_operand :
    assembleText ['T', 'I', 'C', 'K', ' ', '1'] = .error .badOperands := by decide
theorem test_assemble_rejects_range :
    assembleText ['I', 'N', 'I', 'T', ' ', '2', '1', '4', '7', '4', '8', '3', '6', '4', '8'] =
      .error .operandOutOfRange := by decide
theorem test_text_form :
    showCmdWord 0x10000AC44 = ['1', '_', '0', '0', '0', '0', 'A', 'C', '4', '4'] := by decide

/-! ### Witnesses: values that meet the hypotheses of the obligations -/

theorem test_witness_reset_consistent : State.reset.Consistent :=
  ⟨by decide, by decide, by decide, by decide, by decide, by decide⟩
theorem test_witness_ready_consistent : ready44100.Consistent :=
  ⟨by decide, by decide, by decide, by decide, by decide, by decide⟩
theorem test_witness_block_consistent :
    (blockInProgress 1 0x0258BF25 0x00BCAEC7).Consistent :=
  ⟨by decide, by decide, by decide, by decide, by decide, by decide⟩
theorem test_witness_init_consistent : (initInProgress 2).Consistent :=
  ⟨by decide, by decide, by decide, by decide, by decide, by decide⟩

theorem test_witness_DecodeOfEncodeIsCommand :
    (Instr.init (-2147483648)).wellFormed = true ∧ (Instr.block 2147483647).wellFormed = true ∧
      Instr.nop.wellFormed = true := by decide
theorem test_witness_EncodeOfDecodeIsWord :
    decode 0x17FFFFFFF = .ok (.init 2147483647) ∧ decode 0x480000000 = .ok (.block (-2147483648)) ∧
      decode 0x0DEADBEEF = .ok .nop ∧ decode 0x200000001 = .ok .reset ∧
      decode 0x3FFFFFFFF = .ok .tick := by decide
theorem test_witness_IgnoredArgumentHasNoEffect :
    decode (packWord 0 7) = .ok .nop ∧ decode (packWord 2 7) = .ok .reset ∧
      decode (packWord 3 7) = .ok .tick ∧ ready44100.initDone = true ∧ (2 : BitVec 4) ≠ 3 := by decide
theorem test_witness_AssemblerEmitsTheCommand :
    assembleLine (.init (-2147483648)) = .ok [0x180000000] ∧
      assembleLine (.block 2147483647) = .ok [0x47FFFFFFF] ∧
      assembleLine (.init (-2147483649)) = .error .operandOutOfRange ∧
      assembleLine (.block 2147483648) = .error .operandOutOfRange ∧
      assembleLine (.word 0 (-1)) = .ok [0x0FFFFFFFF] ∧
      assembleLine (.word 15 0x1234) = .ok [0xF00001234] ∧
      assembleLine (.word 16 0) = .error .operandOutOfRange ∧
      assembleLine (.word (-1) 0) = .error .operandOutOfRange := by decide
theorem test_witness_PseudoInstructionsExpand :
    assembleLine (.tickN 2) = .ok [0x300000000, 0x300000000] ∧
      assembleLine (.tickN 0) = .ok [] ∧ assembleLine (.tickN (-1)) = .error .operandOutOfRange ∧
      assembleLine (.setup 44100) = .ok [0x10000AC44] ∧
      assembleLine (.setup 2147483648) = .error .operandOutOfRange ∧
      assembleLine (.silent (-2147483648)) = .ok [0x480000000] ∧
      assembleLine (.silent 0) = .ok [0x400000000] ∧
      assembleLine (.silent 1) = .error .operandOutOfRange ∧
      assembleLine (.silent (-2147483649)) = .error .operandOutOfRange := by decide
theorem test_witness_StepRunsDecodedCommand :
    let s := { ready44100 with inputs := [.command 0x300000000] }
    s.remain = 0 ∧ s.divCnt = 0 ∧ s.smpValid = false ∧ decode 0x300000000 = .ok .tick := by decide
theorem test_witness_ReservedWordSetsBadopOnly :
    5 ≤ ((0x500000000 : CmdWord).extractLsb' 32 4).toNat ∧
      5 ≤ ((0xFFFFFFFFF : CmdWord).extractLsb' 32 4).toNat := by decide
theorem test_witness_StepPerformsScheduledEdge :
    ({ State.reset with inputs := [.edge resetPins] } : State).inputs = .edge resetPins :: [] ∧
      ({ initInProgress 2 with inputs := [.command 0] } : State).inputs = .command 0 :: [] ∧
      (initInProgress 2).divCnt ≠ 0 ∧ (blockInProgress 1 0 0).remain ≠ 0 ∧
      (blockInProgress 0 0 0).smpValid = true ∧ State.reset.inputs = [] := by decide
theorem test_witness_OfferedWordRunsNext :
    State.reset.remain = 0 ∧ State.reset.divCnt = 0 ∧ State.reset.smpValid = false := by decide
theorem test_witness_IncrementTable :
    computePinc 440 = 0 ∧ 440 ∣ 440 ∧ (1 : Nat) ≤ 440 ∧ 440 ≤ 192000 ∧
      computePinc 192000 = 9842633 := by decide
theorem test_witness_IncrementTruncatesFraction :
    (computePinc 1).toNat = 0 ∧ (computePinc 3).toNat * 3 < 440 % 3 * 2 ^ 32 := by decide
theorem test_witness_InitLoadsRateAndIncrement :
    (nextOf (exec (.init 44100) State.reset)).map (fun t => (t.src, t.pinc)) =
      some (44100, 0x028DDFB9) := by decide
theorem test_witness_ResetClearsPhaseAndGate :
    ready44100.initDone = true ∧ nextOf (exec .reset ready44100) = some ready44100 ∧
      (nextOf (exec (.init 0) State.reset)).isSome = true := by decide
theorem test_witness_ResetWhileUninitializedChangesNothing :
    State.reset.Consistent ∧ State.reset.initDone = false :=
  ⟨test_witness_reset_consistent, by decide⟩
theorem test_witness_RestartReproducesSamples :
    ready44100.initDone = ({ ready44100 with phase := 5, gate := true } : State).initDone ∧
      ready44100.pinc = ({ ready44100 with phase := 5, gate := true } : State).pinc ∧
      inS32Range 192000 = true ∧ inS32Range 2147483647 = true ∧
      max 1 (min (192000 : Int) 192000) = max 1 (min 2147483647 192000) := by decide
theorem test_witness_TickProducesOneSample :
    ready44100.initDone = true ∧ State.reset.initDone = false := by decide
theorem test_witness_BlockProducesItsSamples :
    (0 : Int) ≤ 0 ∧ (0 : Int) < 1 ∧ State.reset.initDone = false ∧ ready44100.initDone = true ∧
      (blockInProgress 1 0 0).remain ≠ 0 := by decide
theorem test_witness_PhaseAfterTicks :
    ready44100.initDone = true ∧ ready44100.gate = false ∧ ready44100.pinc ≠ 0 := by decide
theorem test_witness_BlockIsConsecutiveTicks :
    0 < 2 ∧ (nextOf (exec (.block 1) ready44100)).map (fun t => t.samples) = some [19659] := by decide
theorem test_witness_SetupCommandsFrame :
    (Instr.nop = .nop ∧ Instr.reset = .reset) ∧ ∃ sr, Instr.init 5 = .init sr :=
  ⟨by decide, 5, rfl⟩
theorem test_witness_ComputeCommandsFrame :
    (Instr.tick = .tick ∧ ready44100.initDone = true ∧ State.reset.initDone = false) ∧
      ∃ n, Instr.block 5 = .block n :=
  ⟨by decide, 5, rfl⟩
theorem test_witness_ZeroIncrementGivesConstantOutput :
    let s := { State.reset with initDone := true, src := 440 }
    s.initDone = true ∧ s.pinc = 0 ∧ s.phase = 0 := by decide
theorem test_witness_EmittedSamplesBounded :
    (nextOf (exec .tick { ready44100 with pinc := 0, phase := 0x3FFF0000, gate := true })).map
        (fun t => t.samples.map BitVec.toInt) = some [214722151] ∧
      (nextOf (acceptCommand 0x300000000 ready44100)).isSome = true := by decide
theorem test_witness_ErrorFlagsSetExactly :
    nextOf (exec .tick State.reset) = some { State.reset with errUninit := true } ∧
      (nextOf (acceptCommand 0x5FFFFFFFF ready44100)).map (fun t => t.errBadop) = some true := by decide
theorem test_witness_FlagsClearedOnlyByReset :
    (nextOf (acceptCommand 0x200000000 { ready44100 with errBadop := true })).map
        (fun t => (t.errBadop, t.initDone)) = some (true, true) ∧
      (offer false 0 true).rst = false ∧ resetPins.rst = true := by decide
theorem test_witness_StatusWordBits :
    statusWord { ready48000 5 with errUninit := true, errBadop := true } = 0x33 ∧
      resetPins.rst = true := by decide
theorem test_witness_ResetZeroesEveryRegister :
    resetPins.rst = true ∧ clockEdge 0 resetPins ready44100 = State.reset := by decide
theorem test_witness_ResetEdgeAcceptsNothing :
    resetPins.rst = true ∧ resetPins.cmdValid = true ∧
      (clockEdge 0 resetPins (blockInProgress 1 0 7)).samples = [] := by decide
theorem test_witness_StepKeepsConsistency :
    ready44100.Consistent ∧ nextOf (step ready44100) = some ready44100 :=
  ⟨test_witness_ready_consistent, by decide⟩
theorem test_witness_ReachableStatesMeetInvariants :
    (nextOf (Core.run Sys2Proof.core 1
      { State.reset with inputs := [.command 0x10000AC44] })).map (fun t => t.pinc) =
      some 0x028DDFB9 := by decide
theorem test_witness_StepKeepsAmplitudeBound :
    ready44100.AmplitudeBounded ∧ nextOf (step ready44100) = some ready44100 :=
  ⟨⟨fun _ h => absurd h List.not_mem_nil, by decide⟩, by decide⟩
theorem test_witness_CommandAcceptance :
    cmdFire (offer false 0x300000000 true) ready44100 = false ∧
      cmdFire (offer true 0x300000000 false) ready44100 = true ∧
      cmdFire (offer true 0x300000000 false) (blockInProgress 0 0 0) = false := by decide
theorem test_witness_PositionCountsAcceptedCommands :
    (offer true 0 true).rst = false ∧ acceptedWords 0 [offer true 0 true] State.reset = [0] ∧
      (nextOf (acceptCommand 0 State.reset)).map (fun t => t.position) = some 1 := by decide
theorem test_witness_InitBusyInterval :
    let p := offer true 0x10000BB80 true
    p.cmdWord = encode (.init 48000) ∧ inS32Range 48000 = true ∧ cmdFire p State.reset = true ∧
      (offer true 0 false).rst = false ∧
      [offer true 0 false, offer true 0 true].length ≤ (2 : DivCount).toNat ∧
      [offer true 0 false].length < (2 : DivCount).toNat ∧
      (runEdges 2 [offer true 0 false, offer true 0 true] (clockEdge 2 p State.reset)).pinc =
        0x0258BF25 := by decide
theorem test_witness_InitBusyInterval_keeps_pinc :
    let t := clockEdge 0 (offer true 0x10000BB80 true) State.reset
    acceptedWords 0 [offer true 0x500000000 true, offer false 0 true] t = [0x500000000] ∧
      decode 0x500000000 = .error (.reservedOp 5) ∧
      (runEdges 0 [offer true 0x500000000 true, offer false 0 true] t).pinc = 0x0258BF25 := by decide
theorem test_witness_BlockTickAtEdge :
    (offer false 0 true).rst = false ∧ (blockInProgress 1 0 0).remain ≠ 0 ∧
      (blockInProgress 1 0 0).divCnt = 0 ∧ (offer false 0 false).smpReady = false := by decide
theorem test_witness_AcceptanceEdgeOfEachWord :
    cmdFire (offer true 0x0DEADBEEF true) (blockInProgress 0 0 0) = true ∧
      decode 0x0DEADBEEF = .ok .nop ∧ decode 0x2FFFFFFFF = .ok .reset ∧
      decode 0x10000BB80 = .ok (.init 48000) ∧ decode 0x300000001 = .ok .tick ∧
      decode 0x400000000 = .ok (.block 0) ∧ decode 0x400000001 = .ok (.block 1) ∧
      decode 0x47FFFFFFF = .ok (.block 2147483647) ∧ decode 0x500000000 = .error (.reservedOp 5) ∧
      ready44100.initDone = true ∧ State.reset.initDone = false ∧
      cmdFire (offer true 0x400000001 true) State.reset = true := by decide
/-- R162, R123, R114: BLOCK 0 leaves the output register empty; TICK in Uninitialized sets ERR_UNINIT. -/
theorem test_acceptance_empties_output_register :
    ((clockEdge 3 (offer true 0x400000000 true) (blockInProgress 0 5 7)).smpValid,
        (clockEdge 3 (offer true 0x400000000 true) (blockInProgress 0 5 7)).samples,
        (clockEdge 3 (offer true 0x300000000 true) State.reset).errUninit) = (false, [7], true) := by
  decide
theorem test_witness_IdleBlockHoldsState :
    (offer false 0 true).rst = false ∧ (offer false 0 true).cmdValid = false ∧
      ready44100.remain = 0 ∧ ready44100.divCnt = 0 ∧ (blockInProgress 0 0 0).smpValid = true := by
  decide
theorem test_witness_EdgeRefinesTransaction :
    (blockInProgress 1 0x0258BF25 0x00BCAEC7).Consistent ∧
      cmdFire (offer true 0 true) (blockInProgress 1 0x0258BF25 0x00BCAEC7) = false ∧
      ready44100.Consistent ∧ cmdFire (offer true 0x300000000 true) ready44100 = true :=
  ⟨test_witness_block_consistent, by decide, test_witness_ready_consistent, by decide⟩
theorem test_witness_RunAgreesWithTransactions :
    let ps := [offer true 0x10000BB80 true, offer true 0x300000000 true, offer false 0 true]
    (∀ p ∈ ps, p.rst = false) ∧ quiescent (runEdges 0 ps State.reset) = true ∧
      (runEdges 0 ps State.reset).samples = [19659] ∧
      cmdReady (offer true 0 true) (runEdges 0 ps State.reset) = true := by decide
theorem test_witness_BlockHoldsPortForItsSamples :
    let s := { ready44100 with remain := 2 }
    s.divCnt = 0 ∧ s.smpValid = false ∧
      (offer true 0 true).rst = false ∧ (offer true 0 true).smpReady = true ∧
      [offer true 0 true].length < s.remain.toNat ∧
      [offer true 0 true, offer true 0 true].length ≤ s.remain.toNat ∧
      (runEdges 0 [offer true 0 true, offer true 0 true] s).samples = [19659] := by decide

/-! ### Runs (R169): a TICK before any INIT, a reset edge, a NOP, and an edge left over -/

/-- A schedule of two runs, split by a reset edge. -/
def twoRuns : State :=
  { State.reset with inputs :=
      [.edge (offer true 0x300000000 true), .edge resetPins, .edge (offer true 0 true),
        .edge (offer false 0 true)] }

theorem test_runs_split_by_reset :
    (runsWithin 4 twoRuns).map (fun r => (r.1, r.2.map RunResult.faults)) =
      [([0x300000000], some [Fault.errUninit]), ([0], some [])] := by decide
theorem test_run_cut_off_by_reset_has_no_end :
    endOfRun 3 false [0x400000002]
      { ready44100 with inputs := [.edge (offer true 0x400000002 true), .edge resetPins] } = none := by
  decide
theorem test_witness_RunEndsAtFirstEdge :
    (endOfRun 4 false [0x300000000] twoRuns).map (fun t => (t.inputs.length, t.errUninit)) =
      some (3, true) := by decide
theorem test_witness_RunResultReportsEnd :
    (endOfRun 4 false [0x300000000] { ready44100 with inputs := [.edge (offer true 0x300000000 true)] }).map
        (fun t => t.samples) = some [19659] ∧
      (endOfRun 4 false [0x300000000] twoRuns).isSome = true := by decide
theorem test_witness_RunResultIsTransactional :
    hardwareReset twoRuns = twoRuns ∧ (endOfRun 4 false [0x300000000] twoRuns).isSome = true := by decide
theorem test_witness_LaterRunsStartFromReset :
    (runStarts 4 false twoRuns).map (fun u => u.inputs.length) = [2] := by decide
theorem test_witness_SequenceOfRunIsItsAcceptedWords :
    sequenceOfRun 4 false twoRuns = [0x300000000] ∧ sequenceOfRun 1 false (nextState twoRuns) = [] := by
  decide
theorem test_witness_RunsOfAScheduleAreTransactional :
    hardwareReset twoRuns = twoRuns ∧
      (runsWithin 4 twoRuns).map (fun r => r.2.isSome) = [true, true] := by decide
theorem test_run_cut_off_by_reset_has_no_result :
    (runsWithin 2
        { State.reset with
          initDone := true, inputs := [.edge (offer true 0x400000002 true), .edge resetPins] }).map
      (fun r => (r.1, r.2.isSome)) = [([0x400000002], false), ([], true)] := by decide

end Sys2Proof.Tests
end

/-! PROOFS. The step at a quiescent block (R160 of spec/70_reset_and_hazards.md, log entry 2). -/

namespace Sys2Proof.Machine

/-- A block is quiescent exactly if its three registers of work in progress are clear (R169). -/
theorem quiescent_iff (s : State) :
    quiescent s = true ↔ s.remain = 0 ∧ s.divCnt = 0 ∧ s.smpValid = false := by
  simp [quiescent, and_assoc]

/-- The host's next command is accepted at once by a quiescent block (R160). -/
theorem step_command_of_quiescent {s : State} {w : CmdWord} {rest : List HostInput}
    (hin : s.inputs = .command w :: rest) (hq : quiescent s = true) :
    step s = acceptCommand w (setInputs rest s) := by
  simp only [step, performNext, hin, hq, if_true]

/-- Settles O8: the quiescent block accepts the command, and its word decodes to the one executed. -/
theorem stepRunsDecodedCommand : Obligations.StepRunsDecodedCommand := by
  intro s w rest i hin hremain hdiv hsmp hdec
  have hq : quiescent s = true := (quiescent_iff s).mpr ⟨hremain, hdiv, hsmp⟩
  calc step s
      = acceptCommand w (setInputs rest s) := step_command_of_quiescent hin hq
    _ = exec i (advancePosition (setInputs rest s)) := acceptCommand_ok hdec _
    _ = exec i { s with inputs := rest, position := s.position + 1 } := rfl

end Sys2Proof.Machine

/-! PROOFS. What holds after every effect of a command word or of an edge's command side holds after the
command word or the edge; what INIT and the rest of an edge write (R161, R162). -/

namespace Sys2Proof.Machine

/-- Ticks leave INIT_DONE as it is (R110). -/
@[simp] theorem repeatTicks_initDone (n : Nat) (s : State) :
    (repeatTicks n s).initDone = s.initDone := (repeatTicks_frame n s).1.1

/-- Ticks accept no command (R21). -/
@[simp] theorem repeatTicks_position (n : Nat) (s : State) :
    (repeatTicks n s).position = s.position := by
  obtain ⟨⟨-, -, -, -, -, -, -, -, -, -, hpos, -⟩, -⟩ := repeatTicks_frame n s
  exact hpos

/-- What holds after each effect of R72's rows and of R76 holds after the accepted command word. -/
theorem acceptCommand_elim {P : State → Prop} {w : CmdWord} {s t : State}
    (h : acceptCommand w s = .next t)
    (unchanged : P (advancePosition s))
    (init : ∀ sr, P (setPinc (computePinc (clampRate sr)) (loadRate sr (advancePosition s))))
    (reset : P (restart (advancePosition s)))
    (ticks : ∀ n, s.initDone = true → P (repeatTicks n (advancePosition s)))
    (uninit : P (setErrUninit (advancePosition s)))
    (reserved : P (setErrBadop (advancePosition s))) : P t := by
  rcases acceptCommand_cases w s with ⟨-, e⟩ | ⟨sr, -, e⟩ | ⟨-, e⟩ | ⟨-, hi, e⟩ | ⟨-, -, e⟩ |
    ⟨_, -, -, e⟩ | ⟨n, -, -, hi, e⟩ | ⟨_, -, -, -, e⟩ | ⟨-, -, e⟩ <;>
    obtain rfl := Host.Outcome.next.inj (e.symm.trans h)
  · exact unchanged
  · exact init sr
  · exact reset
  · exact ticks 1 hi
  · exact uninit
  · exact unchanged
  · exact ticks n.toNat hi
  · exact uninit
  · exact reserved

/-- What holds after each effect of a word at its acceptance edge holds of the registers there (R162). -/
theorem acceptAtEdge_elim {P : State → Prop} (k : DivCount) (w : CmdWord) (s : State)
    (unchanged : P s)
    (init : ∀ sr, P (startInit k sr s))
    (reset : P (restart s))
    (tick : s.initDone = true → P (advancePhase s))
    (block : ∀ n, s.initDone = true → P (setRemain n s))
    (uninit : P (setErrUninit s))
    (reserved : P (setErrBadop s)) : P (acceptAtEdge k w s).1 := by
  unfold acceptAtEdge
  split
  case h_1 => exact unchanged
  case h_2 sr _ => exact init sr
  case h_3 => exact reset
  case h_4 =>
    split
    · exact tick ‹_›
    · exact uninit
  case h_5 n _ =>
    unfold startBlock
    split
    · exact unchanged
    · split
      · exact block _ ‹_›
      · exact uninit
  case h_6 => exact reserved

/-- What holds after an acceptance, after a block tick and where neither takes place holds of the command
side of an edge (R162). -/
theorem commandSide_elim {P : State → Prop} (k : DivCount) (p : Pins) (s : State)
    (fire : cmdFire p s = true → P (acceptAtEdge k p.cmdWord (advancePosition s)).1)
    (tick : cmdFire p s = false → P (setRemain (s.remain - 1) (advancePhase s)))
    (idle : cmdFire p s = false → P s) : P (commandSide k p s).1 := by
  unfold commandSide
  split
  case isTrue hf => exact fire hf
  case isFalse hf =>
    split
    · exact tick (by simpa using hf)
    · exact idle (by simpa using hf)

/-- The output side writes SMP_VALID and SMP_DATA only (R162). -/
theorem outputSide_eq (fired : Bool) (produced : Option Word) (s : State) :
    ∃ v d, outputSide fired produced s = { s with smpValid := v, smpData := d } := by
  unfold outputSide
  split
  · exact ⟨_, _, rfl⟩
  · split <;> exact ⟨_, _, rfl⟩

/-- A busy edge of an INIT counts DIV_CNT down, and writes the increment where it ends (R161). -/
theorem divStep_eq (s : State) :
    ∃ v n, divStep s = { s with divCnt := s.divCnt - 1, pinc := v, freeCount := n } ∧
      (s.divCnt = 1 → v = computePinc s.src.toNat) := by
  unfold divStep
  split
  case isTrue => exact ⟨_, _, rfl, fun _ => rfl⟩
  case isFalse hd => exact ⟨_, _, rfl, fun h => absurd h hd⟩

/-- INIT at its acceptance edge loads the rate and DIV_CNT, and writes the increment if its busy interval
is one edge long (R161). -/
theorem startInit_eq (k : DivCount) (sr : Int) (s : State) :
    ∃ v n, startInit k sr s = { loadRate sr s with divCnt := k, pinc := v, freeCount := n } ∧
      (k = 0 → v = computePinc (clampRate sr)) := by
  unfold startInit
  split
  case isTrue => exact ⟨_, _, rfl, fun _ => by rw [setDivCnt_src, loadRate_src, src_of_clampRate]⟩
  case isFalse hk => exact ⟨_, _, rfl, fun h => absurd h hk⟩

/-- After the command side an edge without reset writes only the output register, PINC, DIV_CNT and the
count of free values (R161, R162). -/
theorem clockEdge_eq_commandSide (k : DivCount) {p : Pins} (s : State) (hr : p.rst = false) :
    ∃ v d i c n, clockEdge k p s =
      { (commandSide k p (transferSample p s)).1 with
        smpValid := v, smpData := d, pinc := i, divCnt := c, freeCount := n } := by
  simp only [clockEdge, hr, Bool.false_eq_true, if_false, runEdge]
  obtain ⟨v, d, e⟩ := outputSide_eq (outFire p s) (commandSide k p (transferSample p s)).2
    (if s.divCnt = 0 then (commandSide k p (transferSample p s)).1
      else divStep (commandSide k p (transferSample p s)).1)
  rw [e]
  split
  · exact ⟨v, d, _, _, _, rfl⟩
  · obtain ⟨i, n, e', -⟩ := divStep_eq (commandSide k p (transferSample p s)).1
    rw [e']
    exact ⟨v, d, i, _, n, rfl⟩

end Sys2Proof.Machine

/-! PROOFS. The invariants of R31 (spec/10_state.md): each operation keeps them, so every command, every
edge and every step does. -/

namespace Sys2Proof.Machine

/-- The invariants as a conjunction, for simp. -/
theorem consistent_iff (s : State) :
    s.Consistent ↔
      (s.initDone = false → s.src = 0 ∧ s.pinc = 0 ∧ s.phase = 0 ∧ s.gate = false) ∧
      (s.initDone = true → legalRate s.src) ∧
      (s.initDone = true → s.divCnt = 0 → s.pinc = BitVec.ofNat 32 (440 * 2 ^ 32 / s.src.toNat)) ∧
      (s.gate = false → s.phase = 0) ∧
      (s.remain ≠ 0 → s.initDone = true ∧ s.divCnt = 0) ∧
      (s.divCnt ≠ 0 → s.initDone = true) :=
  ⟨fun ⟨u, r, i, g, b, d⟩ => ⟨u, r, i, g, b, d⟩, fun ⟨u, r, i, g, b, d⟩ => ⟨u, r, i, g, b, d⟩⟩

/-! The invariants read neither the error flags, nor the output register, nor the host's record. -/

@[simp] theorem consistent_advancePosition (s : State) :
    (advancePosition s).Consistent ↔ s.Consistent := by simp [consistent_iff]
@[simp] theorem consistent_setInputs (l : List HostInput) (s : State) :
    (setInputs l s).Consistent ↔ s.Consistent := by simp [consistent_iff]
@[simp] theorem consistent_setErrUninit (s : State) :
    (setErrUninit s).Consistent ↔ s.Consistent := by simp [consistent_iff]
@[simp] theorem consistent_setErrBadop (s : State) :
    (setErrBadop s).Consistent ↔ s.Consistent := by simp [consistent_iff]
@[simp] theorem consistent_transferSample (p : Pins) (s : State) :
    (transferSample p s).Consistent ↔ s.Consistent := by simp [consistent_iff]
@[simp] theorem consistent_latchSample (v : Word) (s : State) :
    (latchSample v s).Consistent ↔ s.Consistent := by simp [consistent_iff]
@[simp] theorem consistent_outputSide (f : Bool) (o : Option Word) (s : State) :
    (outputSide f o s).Consistent ↔ s.Consistent := by
  obtain ⟨v, d, e⟩ := outputSide_eq f o s
  simp [e, consistent_iff]

/-- Hardware reset clears every register, so each item of R31 holds (R35). -/
theorem consistent_hardwareReset (s : State) : (hardwareReset s).Consistent := by
  simp [consistent_iff]

/-- Settles O39: the reset state is what an edge with rst = 1 leaves of it. -/
theorem resetIsConsistent : Obligations.ResetIsConsistent :=
  consistent_hardwareReset State.reset

/-- RESET clears PHASE and GATE together (R97). -/
theorem consistent_restart {s : State} (h : s.Consistent) : (restart s).Consistent where
  uninitialized hi :=
    have ⟨hsrc, hpinc, _, _⟩ := h.uninitialized hi
    ⟨hsrc, hpinc, rfl, rfl⟩
  rate := h.rate
  increment := h.increment
  gateClear _ := rfl
  blockBusy := h.blockBusy
  initBusy := h.initBusy

/-- A loaded rate is legal, and the increment is its own unless an INIT is busy (R93, R161). -/
theorem consistent_loadedRate {sr : Int} {k : DivCount} {v : Word} (n : Nat) {s : State}
    (hv : k = 0 → v = computePinc (clampRate sr)) (hb : s.remain ≠ 0 → k = 0) :
    { loadRate sr s with divCnt := k, pinc := v, freeCount := n }.Consistent where
  uninitialized hi := absurd hi (by simp)
  rate _ := by simpa only [legalRate, loadRate_src, src_of_clampRate] using clampRate_range sr
  increment _ hk := by
    simpa only [loadRate_src, src_of_clampRate, ← computePinc_eq (clampRate_range sr).1] using hv hk
  gateClear _ := rfl
  blockBusy hr := ⟨rfl, hb hr⟩
  initBusy _ := rfl

/-- A tick in Ready writes PHASE and sets GATE (R112). -/
theorem consistent_advancePhase {s : State} (h : s.Consistent) (hi : s.initDone = true) :
    (advancePhase s).Consistent where
  uninitialized hn := absurd (hi.symm.trans hn) (by decide)
  rate := h.rate
  increment := h.increment
  gateClear hg := absurd hg (by simp)
  blockBusy := h.blockBusy
  initBusy := h.initBusy

/-- The ticks of a BLOCK in Ready (R121). -/
theorem consistent_repeatTicks {s : State} (h : s.Consistent) (hi : s.initDone = true) (n : Nat) :
    (repeatTicks n s).Consistent := by
  induction n with
  | zero => exact h
  | succ n ih =>
    have hin : (repeatTicks n s).initDone = true := (repeatTicks_initDone n s).trans hi
    rw [repeatTicks_succ]
    simpa [consistent_iff] using consistent_advancePhase ih hin

/-- REMAIN is written only in Ready and with no INIT busy (R31 item 4). -/
theorem consistent_setRemain {s : State} (h : s.Consistent) (hi : s.initDone = true)
    (hd : s.divCnt = 0) (v : Word) : (setRemain v s).Consistent where
  uninitialized := h.uninitialized
  rate := h.rate
  increment := h.increment
  gateClear := h.gateClear
  blockBusy _ := ⟨hi, hd⟩
  initBusy := h.initBusy

/-- A busy edge of an INIT writes the increment where DIV_CNT becomes 0 (R161). -/
theorem consistent_divStep {s : State} (h : s.Consistent) (hd : s.divCnt ≠ 0) :
    (divStep s).Consistent := by
  have hi : s.initDone = true := h.initBusy hd
  have hrate : 1 ≤ s.src.toNat := (h.rate hi).1
  obtain ⟨v, n, e, hv⟩ := divStep_eq s
  rw [e]
  exact
    { uninitialized := fun hn => absurd (hi.symm.trans hn) (by decide)
      rate := h.rate
      increment := fun _ (h0 : s.divCnt - 1 = 0) =>
        (hv (sub_eq_zero.1 h0)).trans (computePinc_eq hrate)
      gateClear := h.gateClear
      blockBusy := fun hr => absurd (h.blockBusy hr).2 hd
      initBusy := fun _ => hi }

/-- Every command word keeps the invariants at the transaction level. -/
theorem consistent_acceptCommand {w : CmdWord} {s t : State} (h : s.Consistent)
    (ht : acceptCommand w s = .next t) : t.Consistent := by
  have h' : (advancePosition s).Consistent := (consistent_advancePosition s).2 h
  refine acceptCommand_elim ht h' (fun sr => ?init) (consistent_restart h')
    (fun n hi => consistent_repeatTicks h' hi n) (by simpa using h) (by simpa using h)
  case init =>
    exact consistent_loadedRate s.freeCount (fun _ => rfl) (fun hr => (h.blockBusy hr).2)

/-- Every command word accepted at an edge keeps the invariants: no BLOCK or INIT is in progress there
(R160). -/
theorem consistent_acceptAtEdge (k : DivCount) (w : CmdWord) {s : State} (h : s.Consistent)
    (hr : s.remain = 0) (hd : s.divCnt = 0) : (acceptAtEdge k w s).1.Consistent := by
  refine acceptAtEdge_elim k w s h (fun sr => ?init) (consistent_restart h)
    (consistent_advancePhase h) (fun n hi => consistent_setRemain h hi hd n)
    ((consistent_setErrUninit s).2 h) ((consistent_setErrBadop s).2 h)
  case init =>
    obtain ⟨v, n, e, hv⟩ := startInit_eq k sr s
    exact e ▸ consistent_loadedRate n hv (absurd hr)

/-- Every clock edge keeps the invariants, whatever its pins. -/
theorem consistent_clockEdge (k : DivCount) (p : Pins) {s : State} (h : s.Consistent) :
    (clockEdge k p s).Consistent := by
  have h' : (transferSample p s).Consistent := (consistent_transferSample p s).2 h
  rcases clockEdge_cases k p s (fun hr => (h.blockBusy hr).2) with
    ⟨-, e⟩ | ⟨-, hf⟩ | ⟨hrst, -, hd, hb⟩ | ⟨hrst, -, hd, hr⟩ | ⟨hrst, hf, hd, hb⟩
  case inl =>
    exact e ▸ consistent_hardwareReset s
  case inr.inl =>
    obtain ⟨-, -, hr, hd, -⟩ := (cmdFire_iff p s).1 hf
    rw [clockEdge_fire k hf, consistent_outputSide]
    exact consistent_acceptAtEdge k p.cmdWord (by simpa using h) (by simpa using hr) (by simpa using hd)
  case inr.inr.inl =>
    have hi : s.initDone = true := (h.blockBusy ((blkTick_iff p s).1 hb).1).1
    rw [clockEdge_blockTick k hrst hd hb, consistent_latchSample]
    exact consistent_setRemain (consistent_advancePhase h' (by simpa using hi)) (by simpa using hi)
      (by simpa using hd) _
  case inr.inr.inr.inl =>
    rw [clockEdge_divStep k hrst hd hr, consistent_outputSide]
    exact consistent_divStep h' (by simpa using hd)
  case inr.inr.inr.inr =>
    rw [clockEdge_idle k hrst hd hf hb, consistent_outputSide]
    exact h'

/-- Settles O40: a step is an edge or an accepted command, and both keep the invariants. -/
theorem stepKeepsConsistency : Obligations.StepKeepsConsistency := by
  intro s t h hst
  obtain rfl := Host.Outcome.next.inj ((step_eq_nextState s).symm.trans hst)
  rcases nextState_cases s with ⟨p, rest, -, e, -, -⟩ | ⟨w, rest, -, -, e, -, -⟩ | ⟨e, -, -⟩
  · exact e ▸ consistent_clockEdge _ p ((consistent_setInputs rest s).2 h)
  · exact consistent_acceptCommand ((consistent_setInputs rest s).2 h) e
  · exact e ▸ consistent_clockEdge _ idlePins h

/-- What every step keeps holds in every state that a run reaches. -/
theorem core_run_keeps {P : State → Prop} (keep : ∀ s t, P s → step s = .next t → P t) {k : Nat}
    {s t : State} (h : P s) (hrun : Host.Core.run core k s = .next t) : P t := by
  induction k generalizing s with
  | zero => exact Host.Outcome.next.inj hrun ▸ h
  | succ k ih =>
    have e : Host.Core.run core (k + 1) s = Host.Core.run core k (nextState s) := by
      simp only [Host.Core.run, core, step_eq_nextState]
    exact ih (keep s _ h (step_eq_nextState s)) (e ▸ hrun)

/-- Settles O41: R31's items are part of the invariants, which hold at reset with any schedule placed and
which every step keeps. -/
theorem reachableStatesMeetInvariants : Obligations.ReachableStatesMeetInvariants := by
  intro host k t hrun
  have h : t.Consistent :=
    core_run_keeps stepKeepsConsistency
      ((consistent_setInputs host State.reset).2 resetIsConsistent) hrun
  exact ⟨h.uninitialized, fun hi hd => ⟨(h.rate hi).1, (h.rate hi).2, h.increment hi hd⟩, h.gateClear,
    h.blockBusy⟩

end Sys2Proof.Machine

/-! PROOFS. The position (R21), and the flags that only hardware reset clears (R27, R136). -/

namespace Sys2Proof.Machine

/-- An accepted word changes no position beyond its acceptance. -/
@[simp] theorem acceptAtEdge_position (k : DivCount) (w : CmdWord) (s : State) :
    (acceptAtEdge k w s).1.position = s.position := by
  refine acceptAtEdge_elim (P := fun t => t.position = s.position) k w s rfl (fun sr => ?init) rfl
    (fun _ => rfl) (fun _ _ => rfl) rfl rfl
  case init =>
    obtain ⟨v, n, e, -⟩ := startInit_eq k sr s
    rw [e, loadRate_position]

/-- An edge without reset advances the position exactly if it accepts a command (R21, R160). -/
theorem clockEdge_position (k : DivCount) {p : Pins} (s : State) (hr : p.rst = false) :
    (clockEdge k p s).position = s.position + (if cmdFire p s then 1 else 0) := by
  obtain ⟨v, d, i, c, n, e⟩ := clockEdge_eq_commandSide k s hr
  rw [e]
  refine commandSide_elim (P := fun t => t.position = _) k p (transferSample p s) ?_ ?_ ?_ <;>
    · intro hf
      rw [cmdFire_transferSample] at hf
      simp [hf]

/-- Settles O45: by induction on the schedule, one edge at a time; and case by case over the commands. -/
theorem positionCountsAcceptedCommands : Obligations.PositionCountsAcceptedCommands := by
  constructor
  · intro k ps s hrst
    induction ps generalizing s with
    | nil => rfl
    | cons p ps ih =>
      obtain ⟨hp, hps⟩ := List.forall_mem_cons.1 hrst
      rw [runEdges, ih _ hps, clockEdge_position k s hp, acceptedWords, List.length_append]
      split <;> simp only [List.length_singleton, List.length_nil] <;> omega
  · intro w s t ht
    refine acceptCommand_elim (P := fun t => t.position = s.position + 1) ht rfl (fun _ => rfl) rfl
      (fun n _ => repeatTicks_position n (advancePosition s)) rfl rfl

/-- The sticky flags of the first state, ERR_UNINIT, ERR_BADOP and INIT_DONE, are set in the second. -/
def FlagsKept (s t : State) : Prop :=
  errorsKept s t ∧ (s.initDone = true → t.initDone = true)

/-- Flags that are unchanged are kept. -/
theorem flagsKept_of_eq {s t : State} (hu : t.errUninit = s.errUninit) (hb : t.errBadop = s.errBadop)
    (hi : t.initDone = s.initDone) : FlagsKept s t :=
  ⟨⟨hu.trans, hb.trans⟩, hi.trans⟩

/-- An INIT sets INIT_DONE and keeps the error flags, at both levels (R93, R136). -/
theorem flagsKept_of_initDone {s t : State} (hu : t.errUninit = s.errUninit)
    (hb : t.errBadop = s.errBadop) (hi : t.initDone = true) : FlagsKept s t :=
  ⟨⟨hu.trans, hb.trans⟩, fun _ => hi⟩

theorem flagsKept_setErrUninit (s : State) : FlagsKept s (setErrUninit s) :=
  ⟨⟨fun _ => rfl, id⟩, id⟩

theorem flagsKept_setErrBadop (s : State) : FlagsKept s (setErrBadop s) :=
  ⟨⟨id, fun _ => rfl⟩, id⟩

/-- No command clears a flag at the transaction level (R27, R136). -/
theorem flagsKept_acceptCommand {w : CmdWord} {s t : State} (ht : acceptCommand w s = .next t) :
    FlagsKept s t := by
  refine acceptCommand_elim ht (flagsKept_of_eq rfl rfl rfl)
    (fun _ => flagsKept_of_initDone rfl rfl rfl) (flagsKept_of_eq rfl rfl rfl) (fun n _ => ?ticks)
    (flagsKept_setErrUninit _) (flagsKept_setErrBadop _)
  case ticks =>
    obtain ⟨⟨hinit, -, -, hbadop, -⟩, huninit⟩ := repeatTicks_frame n (advancePosition s)
    exact flagsKept_of_eq huninit hbadop hinit

/-- No command clears a flag at its acceptance edge (R27, R136). -/
theorem flagsKept_acceptAtEdge (k : DivCount) (w : CmdWord) (s : State) :
    FlagsKept s (acceptAtEdge k w s).1 := by
  refine acceptAtEdge_elim k w s (flagsKept_of_eq rfl rfl rfl) (fun sr => ?init)
    (flagsKept_of_eq rfl rfl rfl) (fun _ => flagsKept_of_eq rfl rfl rfl)
    (fun _ _ => flagsKept_of_eq rfl rfl rfl) (flagsKept_setErrUninit s) (flagsKept_setErrBadop s)
  case init =>
    obtain ⟨v, n, e, -⟩ := startInit_eq k sr s
    exact e ▸ flagsKept_of_initDone rfl rfl rfl

/-- No edge without reset clears a flag (R27, R150). -/
theorem flagsKept_clockEdge (k : DivCount) {p : Pins} (s : State) (hr : p.rst = false) :
    FlagsKept s (clockEdge k p s) := by
  have hcmd : FlagsKept (transferSample p s) (commandSide k p (transferSample p s)).1 :=
    commandSide_elim k p _ (fun _ => flagsKept_acceptAtEdge k p.cmdWord (advancePosition _))
      (fun _ => flagsKept_of_eq rfl rfl rfl) (fun _ => flagsKept_of_eq rfl rfl rfl)
  obtain ⟨v, d, i, c, n, e⟩ := clockEdge_eq_commandSide k s hr
  rw [e]
  simpa only [FlagsKept, errorsKept, transferSample_errUninit, transferSample_errBadop,
    transferSample_initDone] using hcmd

/-- Settles O34: commands and edges without reset keep the flags, and hardware reset clears them. -/
theorem flagsClearedOnlyByReset : Obligations.FlagsClearedOnlyByReset :=
  ⟨fun _ _ _ => flagsKept_acceptCommand, fun k _ s => flagsKept_clockEdge k s,
    fun k _ s hr => by simp [clockEdge_rst k s hr]⟩

end Sys2Proof.Machine

/-! PROOFS. The status word (R33), the outputs (R34, R36), hardware reset (R35) and the offered word (log
entry 10). -/

namespace Sys2Proof.Machine

/-- A flag's place in the status word is its only bit. -/
theorem getLsbD_flagAt (b : Bool) {k : Nat} (hk : k < 32) (i : Nat) :
    (flagAt b k).getLsbD i = (b && decide (k = i)) := by
  cases b
  · simp [flagAt]
  · rw [flagAt, if_pos rfl, BitVec.getLsbD_ofNat, Nat.testBit_two_pow]
    rcases eq_or_ne k i with rfl | hne
    · simp [hk]
    · simp [hne]

/-- The status word bit by bit (R33). -/
theorem getLsbD_statusWord (s : State) (i : Nat) :
    (statusWord s).getLsbD i =
      (s.initDone && decide (0 = i) || s.gate && decide (1 = i) || busy s && decide (2 = i) ||
        s.smpValid && decide (3 = i) || s.errUninit && decide (4 = i) ||
        s.errBadop && decide (5 = i)) := by
  simp only [statusWord, BitVec.getLsbD_or, getLsbD_flagAt, Nat.reduceLT]

/-- BUSY as a question about the two registers (R33). -/
theorem busy_eq (s : State) : busy s = (decide (s.remain ≠ 0) || decide (s.divCnt ≠ 0)) := by
  simp [busy, bne, beq_eq_decide]

/-- The value of a status word whose bits 2 and 3 are 0 (R33). -/
theorem toNat_flags (i g u b : Bool) :
    (flagAt i 0 ||| flagAt g 1 ||| flagAt false 2 ||| flagAt false 3 ||| flagAt u 4 |||
      flagAt b 5).toNat = i.toNat + 2 * g.toNat + 16 * u.toNat + 32 * b.toNat := by
  decide +revert

/-- Settles O35: each bit of the word is one flag's, and after reset all flags are 0. -/
theorem statusWordBits : Obligations.StatusWordBits := by
  refine ⟨fun s => ?bits, fun k p s hr => ?reset, fun s hremain hdiv hsmp => ?quiescent⟩
  case bits =>
    refine ⟨?_, ?_, ?_, ?_, ?_, ?_, fun b hb => ?high⟩
    case high =>
      have hne : ∀ j < 6, decide (j = b) = false := fun j hj => decide_eq_false (by omega)
      simp [getLsbD_statusWord, hne]
    all_goals
      rw [getLsbD_statusWord]
      simp [busy_eq]
  case reset =>
    simp [clockEdge_rst k s hr, statusWord, busy, flagAt]
  case quiescent =>
    have hbusy : busy s = false := by simp [busy_eq, hremain, hdiv]
    rw [statusWord, hbusy, hsmp]
    exact toNat_flags s.initDone s.gate s.errUninit s.errBadop

/-- Settles O36: each output is defined as its register. -/
theorem outputsCopyRegisters : Obligations.OutputsCopyRegisters :=
  fun _ _ => ⟨rfl, rfl, rfl, rfl, rfl, rfl, rfl, rfl⟩

/-- Settles O37: the state after an edge with rst = 1 is a hardware reset of some
state, and so is State.reset. -/
theorem resetZeroesEveryRegister : Obligations.ResetZeroesEveryRegister := by
  constructor
  · intro k p s t hr ht
    have hreset : ∃ u, t = hardwareReset u := by
      rcases ht with rfl | rfl
      · exact ⟨s, clockEdge_rst k s hr⟩
      · exact ⟨State.reset, rfl⟩
    obtain ⟨u, rfl⟩ := hreset
    simp
  · intro k p s idx hr
    rw [clockEdge_rst k s hr, hardwareReset_rom]

/-- Settles O42: no sample has been transferred, and the output register holds 0. -/
theorem resetIsAmplitudeBounded : Obligations.ResetIsAmplitudeBounded :=
  ⟨fun _ hv => absurd hv List.not_mem_nil, by decide⟩

/-- Taking the offered word from the schedule of a quiescent block gives the block back (log
entry 10). -/
theorem setInputs_withFetchWord {s : State} (hq : quiescent s = true) (nbits w : Nat) :
    setInputs s.inputs (s.withFetchWord nbits w) = s := by
  obtain ⟨hremain, hdiv, hsmp⟩ := (quiescent_iff s).1 hq
  simp only [State.withFetchWord, offerWord, setInputs, ← hremain, ← hdiv, ← hsmp]

/-- Settles O11: the offered word is the next command of a quiescent block, which accepts it at once. -/
theorem offeredWordRunsNext : Obligations.OfferedWordRunsNext := by
  intro s nbits w hremain hdiv hsmp
  have hq : quiescent s = true := (quiescent_iff s).2 ⟨hremain, hdiv, hsmp⟩
  have hoffer : step (s.withFetchWord nbits w) =
      acceptCommand (BitVec.ofNat 36 w) (setInputs s.inputs (s.withFetchWord nbits w)) :=
    step_command_of_quiescent rfl rfl
  rw [hoffer, setInputs_withFetchWord hq]

end Sys2Proof.Machine

/-! PROOFS. The sine ROM (R52 to R54 of spec/20_memory.md). The model's fraction is the sine to within
2e-11; R53's evaluation over the first quarter keeps that error away from every tie of the rounding, so
each word is the integer nearest to the exact sine. The order and the symmetries of the words then come
from those of the sine. -/

namespace Sys2Proof.Machine

open Real

/-! The Taylor polynomial of degree 15 against the sine. -/

/-- The sine's Taylor polynomial of degree 15. -/
noncomputable def taylorSine (y : ℝ) : ℝ :=
  y - y ^ 3 / 6 + y ^ 5 / 120 - y ^ 7 / 5040 + y ^ 9 / 362880 - y ^ 11 / 39916800 +
    y ^ 13 / 6227020800 - y ^ 15 / 1307674368000

theorem im_expSeries_eq_taylorSine (y : ℝ) :
    (∑ m ∈ Finset.range 17, (y * Complex.I) ^ m / (m.factorial : ℂ)).im = taylorSine y := by
  have hterm (m : ℕ) : ((y * Complex.I) ^ m / (m.factorial : ℂ)).im =
      y ^ m / m.factorial * (Complex.I ^ m).im := by
    rw [mul_pow, mul_div_right_comm, ← Complex.ofReal_natCast, ← Complex.ofReal_pow,
      ← Complex.ofReal_div, Complex.im_ofReal_mul]
  rw [Complex.im_sum, Finset.sum_congr rfl fun m _ => hterm m]
  simp [Finset.sum_range_succ, taylorSine, Nat.factorial, pow_succ]
  ring

/-- The remainder of the exponential series at y·i bounds that of the sine. -/
theorem abs_taylorSine_sub_sin_le {y : ℝ} (hy : |y| ≤ 9) :
    |taylorSine y - sin y| ≤ |y| ^ 17 / (Nat.factorial 17) * 2 := by
  have hnorm : ‖(y : ℂ) * Complex.I‖ = |y| := by simp
  have hexp := Complex.exp_bound' (x := y * Complex.I) (n := 17) (by
    rw [hnorm]
    norm_num
    linarith)
  rw [hnorm, norm_sub_rev] at hexp
  rw [← im_expSeries_eq_taylorSine, ← Complex.exp_ofReal_mul_I_im, ← Complex.sub_im]
  exact (Complex.abs_im_le_norm _).trans hexp

theorem abs_taylorSine_sub_sin_le_of_le {y : ℝ} (h0 : 0 ≤ y) (h1 : y ≤ 1.571) :
    |taylorSine y - sin y| ≤ 13 / 1000000000000 := by
  have hy : |y| ≤ 1.571 := by rwa [abs_of_nonneg h0]
  calc |taylorSine y - sin y| ≤ |y| ^ 17 / (Nat.factorial 17) * 2 :=
        abs_taylorSine_sub_sin_le (hy.trans (by norm_num))
    _ ≤ 1.571 ^ 17 / (Nat.factorial 17) * 2 := by gcongr
    _ ≤ 13 / 1000000000000 := by norm_num [Nat.factorial]

/-! The model's fraction against the sine. -/

/-- The fraction that quarterSine rounds, before it is scaled. -/
def quarterFraction (r : ℕ) : ℕ × ℕ :=
  sineFraction (piNum * r) (piDen * 32768)

/-- The angle of r in the first quarter. -/
noncomputable def quarterAngle (r : ℕ) : ℝ :=
  π * r / 32768

/-- The angle of r with the model's decimals of π. -/
noncomputable def decimalAngle (r : ℕ) : ℝ :=
  (piNum * r : ℕ) / (piDen * 32768 : ℕ)

theorem decimalAngle_eq (r : ℕ) : decimalAngle r = piNum / piDen * (r / 32768) := by
  rw [decimalAngle]
  push_cast
  ring

theorem abs_piNum_div_piDen_sub_pi_le : |(piNum : ℝ) / piDen - π| ≤ 1 / 100000000000000000000 := by
  have hlo := pi_gt_d20
  have hhi := pi_lt_d20
  rw [abs_le]
  norm_num [piNum, piDen] at *
  constructor <;> linarith

theorem abs_decimalAngle_sub_quarterAngle_le {r : ℕ} (hr : r ≤ 16384) :
    |decimalAngle r - quarterAngle r| ≤ 1 / 100000000000000000000 := by
  have hr' : (r : ℝ) / 32768 ≤ 1 := by
    have : (r : ℝ) ≤ 16384 := by exact_mod_cast hr
    linarith
  have hfactor : decimalAngle r - quarterAngle r = (piNum / piDen - π) * (r / 32768) := by
    rw [decimalAngle_eq, quarterAngle]
    ring
  calc |decimalAngle r - quarterAngle r| = |(piNum : ℝ) / piDen - π| * (r / 32768) := by
        rw [hfactor, abs_mul, abs_of_nonneg (by positivity : (0 : ℝ) ≤ r / 32768)]
    _ ≤ |(piNum : ℝ) / piDen - π| := mul_le_of_le_one_right (abs_nonneg _) hr'
    _ ≤ 1 / 100000000000000000000 := abs_piNum_div_piDen_sub_pi_le

theorem quarterFraction_value {r : ℕ} (hr : r ≤ 16384) :
    ((quarterFraction r).1 : ℝ) / (quarterFraction r).2 = taylorSine (decimalAngle r) := by
  have hangle : piNum * r ≤ 2 * (piDen * 32768) := by
    norm_num [piNum, piDen]
    omega
  exact (sineFraction_value (by norm_num [piDen]) hangle).2 _ rfl

theorem quarterFraction_error {r : ℕ} (hr : r ≤ 16384) :
    |((quarterFraction r).1 : ℝ) / (quarterFraction r).2 - sin (quarterAngle r)| <
      2 / 100000000000 := by
  have hpos : 0 ≤ decimalAngle r := by unfold decimalAngle; positivity
  have hle : decimalAngle r ≤ 1.571 := by
    have : (r : ℝ) ≤ 16384 := by exact_mod_cast hr
    rw [decimalAngle_eq]
    norm_num [piNum, piDen]
    linarith
  rw [quarterFraction_value hr]
  calc |taylorSine (decimalAngle r) - sin (quarterAngle r)|
      ≤ |taylorSine (decimalAngle r) - sin (decimalAngle r)| +
          |sin (decimalAngle r) - sin (quarterAngle r)| := abs_sub_le _ _ _
    _ ≤ 13 / 1000000000000 + 1 / 100000000000000000000 :=
        add_le_add (abs_taylorSine_sub_sin_le_of_le hpos hle)
          ((abs_sin_sub_sin_le _ _).trans (abs_decimalAngle_sub_quarterAngle_le hr))
    _ < 2 / 100000000000 := by norm_num

/-! No tie of the rounding is near (R53). -/

/-- The quotient a/b is further than 1e-6 from every half-integer: the remainder of the rounding
division, over its divisor 2b, is further than 1e-6 from 0 and from 1. -/
def clearOfTie (a b : ℕ) : Bool :=
  2 * b < 1000000 * ((2 * a + b) % (2 * b)) && 1000000 * ((2 * a + b) % (2 * b)) < 1999998 * b

theorem nearestNat_error {a b : ℕ} (h : clearOfTie a b = true) :
    |(nearestNat a b : ℝ) - a / b| < 1 / 2 - 1 / 1000000 := by
  simp only [clearOfTie, Bool.and_eq_true, decide_eq_true_eq] at h
  obtain ⟨hlo, hhi⟩ := h
  have hb : (0 : ℝ) < b := by
    rcases Nat.eq_zero_or_pos b with rfl | hb
    · simp at hhi
    · exact_mod_cast hb
  have hdiv : (2 * b : ℝ) * nearestNat a b + ((2 * a + b) % (2 * b) : ℕ) = 2 * a + b := by
    exact_mod_cast Nat.div_add_mod (2 * a + b) (2 * b)
  generalize (2 * a + b) % (2 * b) = t at *
  have hlo' : (2 * b : ℝ) < 1000000 * t := by exact_mod_cast hlo
  have hhi' : (1000000 * t : ℝ) < 1999998 * b := by exact_mod_cast hhi
  have hdist : (nearestNat a b : ℝ) - a / b = (b - t) / (2 * b) := by
    field_simp
    linarith
  rw [hdist, abs_lt, lt_div_iff₀ (by positivity), div_lt_iff₀ (by positivity)]
  constructor <;> linarith

/-- What quarterSine rounds at r is clear of every tie. -/
def quarterClear (r : ℕ) : Bool :=
  clearOfTie (romScale * (quarterFraction r).1) (quarterFraction r).2

/-- The predicate holds at the 2^k numbers from b on, by halves: evaluation nests k deep only. -/
def allFrom (p : ℕ → Bool) : ℕ → ℕ → Bool
  | 0, b => p b
  | k + 1, b => allFrom p k b && allFrom p k (b + 2 ^ k)

theorem allFrom_apply {p : ℕ → Bool} {k b : ℕ} (h : allFrom p k b = true) {r : ℕ} (hb : b ≤ r)
    (hr : r < b + 2 ^ k) : p r = true := by
  induction k generalizing b with
  | zero =>
    obtain rfl : b = r := by omega
    exact h
  | succ k ih =>
    obtain ⟨hlo, hhi⟩ := Bool.and_eq_true_iff.1 h
    rw [pow_succ] at hr
    by_cases hmid : r < b + 2 ^ k
    · exact ih hlo hb hmid
    · exact ih hhi (by omega) (by omega)

/-- R53's evaluation, over the 16384 positive counters of the first quarter. How near 32767 times the
sine comes to a tie is a fact about each of these numbers (the nearest is at 7.4e-6), so the kernel
evaluates the model's fraction at each; every other fact about the ROM is derived. -/
theorem allFrom_one_quarterClear : allFrom quarterClear 14 1 = true := by decide +kernel

theorem quarterClear_of_le {r : ℕ} (hr : r ≤ 16384) : quarterClear r = true := by
  rcases Nat.eq_zero_or_pos r with rfl | hpos
  · decide +kernel
  · exact allFrom_apply allFrom_one_quarterClear hpos (by omega)

/-! The first quarter of the ROM. -/

theorem quarterSine_nearest {r : ℕ} (hr : r ≤ 16384) :
    |(quarterSine r : ℝ) - 32767 * sin (quarterAngle r)| < 1 / 2 := by
  have hround : |(quarterSine r : ℝ) -
      (romScale * (quarterFraction r).1 : ℕ) / (quarterFraction r).2| < 1 / 2 - 1 / 1000000 :=
    nearestNat_error (quarterClear_of_le hr)
  have hsine := quarterFraction_error hr
  simp only [romScale, Nat.cast_mul, Nat.cast_ofNat, mul_div_assoc] at hround
  rw [abs_lt] at *
  constructor <;> linarith

/-- Integers strictly nearest to two reals are in the order of the reals. -/
theorem le_of_nearest {m n : ℤ} {x y : ℝ} (hxy : x ≤ y) (hm : |m - x| < 1 / 2)
    (hn : |n - y| < 1 / 2) : m ≤ n := by
  rw [abs_lt] at hm hn
  have hlt : (m : ℝ) < n + 1 := by linarith
  exact Int.lt_add_one_iff.1 (by exact_mod_cast hlt)

theorem eq_of_nearest {m n : ℤ} {x : ℝ} (hm : |m - x| < 1 / 2) (hn : |n - x| < 1 / 2) : m = n :=
  le_antisymm (le_of_nearest le_rfl hm hn) (le_of_nearest le_rfl hn hm)

theorem sin_quarterAngle_mono {q r : ℕ} (hqr : q ≤ r) (hr : r ≤ 16384) :
    sin (quarterAngle q) ≤ sin (quarterAngle r) := by
  have hpi := pi_pos
  have hr' : π * (r : ℝ) ≤ π * 16384 := by gcongr; exact_mod_cast hr
  have hq : 0 ≤ π * (q : ℝ) / 32768 := by positivity
  refine sin_le_sin_of_le_of_le_pi_div_two ?_ ?_ ?_ <;> unfold quarterAngle
  · linarith
  · linarith
  · gcongr

theorem quarterSine_mono {q r : ℕ} (hqr : q ≤ r) (hr : r ≤ 16384) :
    quarterSine q ≤ quarterSine r := by
  have hsin : 32767 * sin (quarterAngle q) ≤ 32767 * sin (quarterAngle r) := by
    gcongr
    exact sin_quarterAngle_mono hqr hr
  have hq := quarterSine_nearest (hqr.trans hr)
  have hr := quarterSine_nearest hr
  exact_mod_cast le_of_nearest hsin (m := quarterSine q) (n := quarterSine r)
    (by exact_mod_cast hq) (by exact_mod_cast hr)

theorem quarterSine_le {r : ℕ} (hr : r ≤ 16384) : quarterSine r ≤ 32767 :=
  calc quarterSine r ≤ quarterSine 16384 := quarterSine_mono hr le_rfl
    _ = 32767 := by decide +kernel

theorem quarterSine_eq_zero_iff {r : ℕ} (hr : r ≤ 16384) : quarterSine r = 0 ↔ r = 0 := by
  have hzero : quarterSine 0 = 0 := by decide +kernel
  have hone : quarterSine 1 = 3 := by decide +kernel
  constructor
  · intro h
    by_contra hne
    have hmono := quarterSine_mono (Nat.one_le_iff_ne_zero.2 hne) hr
    omega
  · rintro rfl
    exact hzero

theorem quarterSine_eq_peak_iff {r : ℕ} (hr : r ≤ 16384) :
    quarterSine r = 32767 ↔ 16327 ≤ r := by
  have hbefore : quarterSine 16326 = 32766 := by decide +kernel
  have hfirst : quarterSine 16327 = 32767 := by decide +kernel
  constructor
  · intro h
    by_contra hlt
    have hmono := quarterSine_mono (q := r) (r := 16326) (by omega) (by omega)
    omega
  · intro h
    exact le_antisymm (quarterSine_le hr) (hfirst ▸ quarterSine_mono h hr)

/-! The four quarters. -/

theorem quarter_cases {c : ℕ} (hc : c < 65536) : ∃ r < 16384,
    c = r ∨ c = 16384 + r ∨ c = 32768 + r ∨ c = 49152 + r :=
  ⟨c % 16384, Nat.mod_lt _ (by decide), by omega⟩

theorem sineCode_range {c : ℕ} (hc : c < 65536) : -32767 ≤ sineCode c ∧ sineCode c ≤ 32767 := by
  obtain ⟨r, hr, hquarter⟩ := quarter_cases hc
  obtain ⟨h1, h2, h3, h4⟩ := sineCode_quarters hr
  have hup := quarterSine_le hr.le
  have hdown := quarterSine_le (Nat.sub_le 16384 r)
  rcases hquarter with rfl | rfl | rfl | rfl <;> omega

theorem sineCode_eq_zero_iff {c : ℕ} (hc : c < 65536) :
    sineCode c = 0 ↔ c = 0 ∨ c = 32768 := by
  obtain ⟨r, hr, hquarter⟩ := quarter_cases hc
  obtain ⟨h1, h2, h3, h4⟩ := sineCode_quarters hr
  have hup := quarterSine_eq_zero_iff hr.le
  have hdown := quarterSine_eq_zero_iff (Nat.sub_le 16384 r)
  rcases hquarter with rfl | rfl | rfl | rfl <;> omega

theorem sineCode_eq_peak_iff {c : ℕ} (hc : c < 65536) :
    (sineCode c = 32767 ↔ 16327 ≤ c ∧ c ≤ 16441) ∧
    (sineCode c = -32767 ↔ 49095 ≤ c ∧ c ≤ 49209) := by
  obtain ⟨r, hr, hquarter⟩ := quarter_cases hc
  obtain ⟨h1, h2, h3, h4⟩ := sineCode_quarters hr
  have hup := quarterSine_eq_peak_iff hr.le
  have hdown := quarterSine_eq_peak_iff (Nat.sub_le 16384 r)
  rcases hquarter with rfl | rfl | rfl | rfl <;> omega

theorem neg_nearest_neg {m : ℤ} {x : ℝ} (h : |m - 32767 * x| < 1 / 2) :
    |((-m : ℤ) : ℝ) - 32767 * -x| < 1 / 2 := by
  rw [abs_lt] at *
  push_cast
  constructor <;> linarith

theorem sineCode_nearest {c : ℕ} (hc : c < 65536) :
    |(sineCode c : ℝ) - 32767 * sin (2 * π * c / 65536)| < 1 / 2 := by
  obtain ⟨r, hr, hquarter⟩ := quarter_cases hc
  obtain ⟨h1, h2, h3, h4⟩ := sineCode_quarters hr
  have hup : |((quarterSine r : ℤ) : ℝ) - 32767 * sin (quarterAngle r)| < 1 / 2 := by
    exact_mod_cast quarterSine_nearest hr.le
  have hdown : |((quarterSine (16384 - r) : ℤ) : ℝ) - 32767 * sin (quarterAngle (16384 - r))| <
      1 / 2 := by
    exact_mod_cast quarterSine_nearest (Nat.sub_le 16384 r)
  have hcast : ((16384 - r : ℕ) : ℝ) = 16384 - r := Nat.cast_sub hr.le
  rcases hquarter with rfl | rfl | rfl | rfl
  · have hangle : 2 * π * (c : ℝ) / 65536 = quarterAngle c := by
      rw [quarterAngle]
      ring
    rw [h1, hangle]
    exact hup
  · have hangle : 2 * π * (16384 + r : ℕ) / 65536 = π - quarterAngle (16384 - r) := by
      rw [quarterAngle, hcast]
      push_cast
      ring
    rw [h2, hangle, sin_pi_sub]
    exact hdown
  · have hangle : 2 * π * (32768 + r : ℕ) / 65536 = quarterAngle r + π := by
      rw [quarterAngle]
      push_cast
      ring
    rw [h3, hangle, sin_add_pi]
    exact neg_nearest_neg hup
  · have hangle : 2 * π * (49152 + r : ℕ) / 65536 = 2 * π - quarterAngle (16384 - r) := by
      rw [quarterAngle, hcast]
      push_cast
      ring
    rw [h4, hangle, sin_two_pi_sub]
    exact neg_nearest_neg hdown

/-! The ROM. -/

theorem builderCounter_lt (i : RomIndex) : builderCounter i < 65536 :=
  Nat.mod_lt _ (by decide)

/-- The code of every counter fits the 16-bit word. -/
theorem romRead_eq_sineCode (i : RomIndex) :
    romRead .sineTable i = sineCode (builderCounter i) := by
  obtain ⟨hlo, hhi⟩ := sineCode_range (builderCounter_lt i)
  rw [romRead, romWord, BitVec.toInt_ofInt_eq_self (by decide)] <;> norm_num <;> omega

/-- Settles O30: the word is the code of the builder's counter. -/
theorem romIsNearestToSine : Obligations.RomIsNearestToSine := by
  intro i
  rw [romRead_eq_sineCode]
  exact sineCode_nearest (builderCounter_lt i)

/-- The sine may be taken at any integer congruent to the builder's counter. -/
theorem romRead_nearest {i : RomIndex} {k : ℤ} (hk : k ≡ i.toNat + 1 [ZMOD 65536]) :
    |(romRead .sineTable i : ℝ) - 32767 * sin (2 * π * k / 65536)| < 1 / 2 := by
  obtain ⟨n, hn⟩ : ∃ n : ℤ, k = ((i.toNat + 1) % 65536 : ℕ) + n * 65536 :=
    ⟨k / 65536, by rw [Int.ModEq] at hk; omega⟩
  have hangle : 2 * π * k / 65536 =
      2 * π * ((i.toNat + 1) % 65536 : ℕ) / 65536 + n * (2 * π) := by
    rw [hn, Int.cast_add, Int.cast_mul, Int.cast_natCast, Int.cast_ofNat]
    ring
  rw [hangle, sin_add_int_mul_two_pi]
  exact romIsNearestToSine i

/-- R54, item 2: the sine is odd. -/
theorem romRead_antisymm (i : RomIndex) :
    romRead .sineTable (65534 - i) = -romRead .sineTable i := by
  have hk : -((i.toNat : ℤ) + 1) ≡ (65534 - i : RomIndex).toNat + 1 [ZMOD 65536] := by
    have hi : (65534 - i : RomIndex).toNat = (131070 - i.toNat) % 65536 := by bv_omega
    rw [Int.ModEq, hi]
    omega
  have hneg := romRead_nearest hk
  rw [Int.cast_neg, mul_neg, neg_div, sin_neg] at hneg
  exact eq_of_nearest hneg (neg_nearest_neg (romRead_nearest rfl))

/-- R54, item 3: the sine is symmetric about a quarter turn. -/
theorem romRead_mirror (i : RomIndex) :
    romRead .sineTable (32766 - i) = romRead .sineTable i := by
  have hk : 32768 - ((i.toNat : ℤ) + 1) ≡ (32766 - i : RomIndex).toNat + 1 [ZMOD 65536] := by
    have hi : (32766 - i : RomIndex).toNat = (98302 - i.toNat) % 65536 := by bv_omega
    rw [Int.ModEq, hi]
    omega
  have hangle : 2 * π * (32768 - ((i.toNat : ℤ) + 1) : ℤ) / 65536 =
      π - 2 * π * ((i.toNat : ℤ) + 1 : ℤ) / 65536 := by
    push_cast
    ring
  have hmirror := romRead_nearest hk
  rw [hangle, sin_pi_sub] at hmirror
  exact eq_of_nearest hmirror (romRead_nearest rfl)

/-- Settles O31: the range is that of the codes, and the symmetries are the sine's. -/
theorem romSymmetries : Obligations.RomSymmetries := by
  intro i
  obtain ⟨hlo, hhi⟩ := sineCode_range (builderCounter_lt i)
  rw [← romRead_eq_sineCode] at hlo hhi
  exact ⟨hlo, hhi, romRead_antisymm i, romRead_mirror i⟩

/-- Settles O32: the counters of the zeros and of the peaks, moved back by one to the index. -/
theorem romZerosAndPeaks : Obligations.RomZerosAndPeaks := by
  intro i
  have hc := builderCounter_lt i
  obtain ⟨htop, hbottom⟩ := sineCode_eq_peak_iff hc
  rw [romRead_eq_sineCode, htop, hbottom, sineCode_eq_zero_iff hc, builderCounter, tableLen]
  omega

end Sys2Proof.Machine

/-! PROOFS. Encoding (R70 to R76 of spec/30_encoding.md): the decoder on packed words and row by row of
R73, the words whose ARG is ignored, and the reserved words. -/

namespace Sys2Proof

/-! The decoder on a word packed from its fields, one row of R72 each. -/

theorem decode_packWord_nop (a : Word) : decode (packWord 0 a) = .ok .nop := by
  simp [decode, opField_packWord]

theorem decode_packWord_init (a : Word) : decode (packWord 1 a) = .ok (.init (s32 a)) := by
  simp [decode, opField_packWord, argField_packWord]

theorem decode_packWord_reset (a : Word) : decode (packWord 2 a) = .ok .reset := by
  simp [decode, opField_packWord]

theorem decode_packWord_tick (a : Word) : decode (packWord 3 a) = .ok .tick := by
  simp [decode, opField_packWord]

theorem decode_packWord_block (a : Word) : decode (packWord 4 a) = .ok (.block (s32 a)) := by
  simp [decode, opField_packWord, argField_packWord]

/-- The decoder undoes the encoder where the operand is a 32-bit integer (R71, R78). -/
theorem decode_encode {i : Instr} (h : i.wellFormed = true) : decode (encode i) = .ok i := by
  cases i with
  | nop => exact decode_packWord_nop 0
  | init sr => exact (decode_packWord_init (argOf sr)).trans (by rw [s32_argOf h])
  | reset => exact decode_packWord_reset 0
  | tick => exact decode_packWord_tick 0
  | block n => exact (decode_packWord_block (argOf n)).trans (by rw [s32_argOf h])

/-- Settles O1: row by row, s32 reads back the operand that the encoder wrote. -/
theorem decodeOfEncodeIsCommand : Obligations.DecodeOfEncodeIsCommand :=
  fun _ => decode_encode

/-- Packing the operand read from a word's ARG gives the word back (R71). -/
theorem packWord_argOf_s32 {w : CmdWord} {op : BitVec 4} (ho : opField w = op) :
    packWord op (argOf (s32 (argField w))) = w := by
  rw [argOf_s32, ← ho, packWord_fields]

/-- A word under the mask of R73 is a row's match exactly if its OP is the row's. -/
theorem and_opMask_eq_iff (w : CmdWord) (op : BitVec 4) :
    w &&& opMask = packWord op 0 ↔ opField w = op := by
  rw [and_opMask, packWord_inj]
  exact and_iff_left rfl

/-- Settles O2: by the rows of the decoder; where ARG is read it is the operand's, and elsewhere only OP
is left under the mask. -/
theorem encodeOfDecodeIsWord : Obligations.EncodeOfDecodeIsWord := by
  intro w i h
  rcases decode_cases w with ⟨hd, ho⟩ | ⟨hd, ho⟩ | ⟨hd, ho⟩ | ⟨hd, ho⟩ | ⟨hd, ho⟩ | ⟨hd, -⟩
  case inr.inr.inr.inr.inr => exact nomatch hd.symm.trans h
  all_goals obtain rfl := Except.ok.inj (hd.symm.trans h)
  · exact ⟨rfl, ((and_opMask_eq_iff w 0).2 ho).symm⟩
  · exact ⟨inS32Range_s32 _, packWord_argOf_s32 ho⟩
  · exact ⟨rfl, ((and_opMask_eq_iff w 2).2 ho).symm⟩
  · exact ⟨rfl, ((and_opMask_eq_iff w 3).2 ho).symm⟩
  · exact ⟨inS32Range_s32 _, packWord_argOf_s32 ho⟩

/-- Which OP makes the decoder give which answer (R72). -/
theorem decode_iff_opField (w : CmdWord) :
    (decode w = .ok .nop ↔ opField w = 0) ∧
    ((∃ sr, decode w = .ok (.init sr)) ↔ opField w = 1) ∧
    (decode w = .ok .reset ↔ opField w = 2) ∧
    (decode w = .ok .tick ↔ opField w = 3) ∧
    ((∃ n, decode w = .ok (.block n)) ↔ opField w = 4) ∧
    ((∃ op, decode w = .error (.reservedOp op)) ↔ 5 ≤ (opField w).toNat) := by
  rcases decode_cases w with ⟨hd, ho⟩ | ⟨hd, ho⟩ | ⟨hd, ho⟩ | ⟨hd, ho⟩ | ⟨hd, ho⟩ | ⟨hd, ho⟩
  case inr.inr.inr.inr.inr =>
    have hne (op : BitVec 4) (hop : op.toNat < 5) : opField w ≠ op := by
      rintro rfl
      omega
    simp [hd, ho, hne]
  all_goals simp [hd, ho]

/-- Settles O3: a row's match is its OP packed with ARG = 0, and OP decides the row. -/
theorem decodeFollowsMatchAndMask : Obligations.DecodeFollowsMatchAndMask := by
  intro w
  obtain ⟨hnop, hinit, hreset, htick, hblock, hreserved⟩ := decode_iff_opField w
  have hlt : (opField w).toNat < 16 := (opField w).isLt
  exact ⟨hnop.trans (and_opMask_eq_iff w 0).symm, hinit.trans (and_opMask_eq_iff w 1).symm,
    hreset.trans (and_opMask_eq_iff w 2).symm, htick.trans (and_opMask_eq_iff w 3).symm,
    hblock.trans (and_opMask_eq_iff w 4).symm,
    hreserved.trans (iff_self_and.2 fun _ => Nat.le_of_lt_succ hlt)⟩

/-- Settles O5: the words are closed, and the decoder computes. -/
theorem specWordsDecode : Obligations.SpecWordsDecode := by
  unfold Obligations.SpecWordsDecode
  decide

end Sys2Proof

namespace Sys2Proof.Machine

/-- The transaction level sees of a word what it decodes to (R90). -/
theorem acceptCommand_congr {v w : CmdWord} (h : decode v = decode w) (s : State) :
    acceptCommand v s = acceptCommand w s := by
  simp only [acceptCommand, h]

/-- The acceptance edge sees of a word what it decodes to (R162). -/
theorem acceptAtEdge_congr {v w : CmdWord} (h : decode v = decode w) (k : DivCount) (s : State) :
    acceptAtEdge k v s = acceptAtEdge k w s := by
  simp only [acceptAtEdge, h]

/-- ARG is ignored beside the OP of NOP, RESET and TICK (R75). -/
theorem decode_packWord_of_ignoredArg {op : BitVec 4} (h : op = 0 ∨ op = 2 ∨ op = 3) (a : Word) :
    decode (packWord op a) = decode (packWord op 0) := by
  rcases h with rfl | rfl | rfl
  · rw [decode_packWord_nop, decode_packWord_nop]
  · rw [decode_packWord_reset, decode_packWord_reset]
  · rw [decode_packWord_tick, decode_packWord_tick]

/-- A TICK word sets no error flag but ERR_UNINIT, and that only in Uninitialized (R75, R114). -/
theorem acceptCommand_tick_flags {w : CmdWord} (h : decode w = .ok .tick) (s : State) :
    ∃ t, acceptCommand w s = .next t ∧ t.errBadop = s.errBadop ∧
      (s.initDone = true → t.errUninit = s.errUninit) := by
  refine ⟨_, acceptCommand_ok h s, ?_⟩
  cases hi : s.initDone <;> simp [hi]

/-- Settles O4: both levels see what the word decodes to, and there ARG is ignored; the flags by the three
commands. -/
theorem ignoredArgumentHasNoEffect : Obligations.IgnoredArgumentHasNoEffect := by
  intro op a k s hop
  have hd := decode_packWord_of_ignoredArg hop a
  refine ⟨acceptCommand_congr hd s, acceptAtEdge_congr hd k s, ⟨rfl, rfl, rfl⟩, ?_⟩
  rcases hop with rfl | rfl | rfl
  · exact ⟨_, acceptCommand_ok (decode_packWord_nop a) s, rfl, fun _ => rfl⟩
  · exact ⟨_, acceptCommand_ok (decode_packWord_reset a) s, rfl, fun _ => rfl⟩
  · obtain ⟨t, ht, hbadop, huninit⟩ := acceptCommand_tick_flags (decode_packWord_tick a) s
    exact ⟨t, ht, hbadop, fun h => huninit (h.resolve_right fun hne => hne rfl)⟩

/-- Settles O9: the decoder rejects the word by its OP, and both levels then set the flag alone. -/
theorem reservedWordSetsBadopOnly : Obligations.ReservedWordSetsBadopOnly := by
  intro w k s hop
  obtain ⟨-, -, -, -, -, hreserved⟩ := decode_iff_opField w
  obtain ⟨op, hd⟩ := hreserved.2 hop
  refine ⟨acceptCommand_reserved hd s, ?_, ?_⟩
  · simp only [acceptAtEdge, hd]
    rfl
  · simp [runFaults]

/-- Settles O12: the next state is the one that every step goes on to. -/
theorem everyStepGoesOn : Obligations.EveryStepGoesOn :=
  fun s => ⟨nextState s, step_eq_nextState s⟩

end Sys2Proof.Machine

/-! PROOFS. The assembler (R78, R79 of spec/30_encoding.md) and the text form of a command word (R80). -/

namespace Sys2Proof.Machine

/-! The words that the assembler emits, as numbers (R78). -/

theorem packWord_ofInt_argOf {op : Int} (h0 : 0 ≤ op) (h15 : op ≤ 15) (v : Int) :
    packWord (BitVec.ofInt 4 op) (argOf v) = BitVec.ofInt 36 (op * 2 ^ 32 + v % 2 ^ 32) := by
  apply BitVec.eq_of_toNat_eq
  rw [packWord_toNat, argOf]
  simp only [BitVec.toNat_ofInt]
  omega

theorem encode_init (v : Int) :
    encode (.init v) = BitVec.ofInt 36 (1 * 2 ^ 32 + v % 2 ^ 32) := by
  rw [← packWord_ofInt_argOf (by decide) (by decide)]
  rfl

theorem encode_block (v : Int) :
    encode (.block v) = BitVec.ofInt 36 (4 * 2 ^ 32 + v % 2 ^ 32) := by
  rw [← packWord_ofInt_argOf (by decide) (by decide)]
  rfl

/-! Which commands the assembler accepts, and which it rejects (R78). -/

theorem assembleInstr_of_wellFormed {i : Instr} (h : i.wellFormed = true) :
    assembleInstr i = .ok [encode i] := if_pos h

theorem assembleInstr_of_not_wellFormed {i : Instr} (h : ¬ i.wellFormed = true) :
    assembleInstr i = .error .operandOutOfRange := if_neg h

theorem not_inS32Range {v : Int} (h : v < -2147483648 ∨ 2147483647 < v) :
    ¬ inS32Range v = true := by
  rw [inS32Range_iff]
  omega

/-- INIT in range (R78). -/
theorem assembleInstr_init {v : Int} (h : inS32Range v = true) :
    assembleInstr (.init v) = .ok [BitVec.ofInt 36 (1 * 2 ^ 32 + v % 2 ^ 32)] := by
  rw [assembleInstr_of_wellFormed (i := .init v) h, encode_init]

/-- BLOCK in range (R78). -/
theorem assembleInstr_block {v : Int} (h : inS32Range v = true) :
    assembleInstr (.block v) = .ok [BitVec.ofInt 36 (4 * 2 ^ 32 + v % 2 ^ 32)] := by
  rw [assembleInstr_of_wellFormed (i := .block v) h, encode_block]

/-- Settles O6: a command is accepted exactly if it is well formed, and its word is its fields as one
number. -/
theorem assemblerEmitsTheCommand : Obligations.AssemblerEmitsTheCommand := by
  refine ⟨⟨rfl, rfl, rfl⟩, ?_, ?_, ?_, ?_, ⟨rfl, rfl, rfl⟩, fun _ _ => ⟨rfl, rfl, rfl⟩⟩
  · intro v hlo hhi
    have hv : inS32Range v = true := (inS32Range_iff v).2 ⟨hlo, hhi⟩
    exact ⟨assembleInstr_init hv, encode_init v ▸ decode_encode hv,
      assembleInstr_block hv, encode_block v ▸ decode_encode hv⟩
  · intro v hv
    exact ⟨assembleInstr_of_not_wellFormed (not_inS32Range hv),
      assembleInstr_of_not_wellFormed (not_inS32Range hv)⟩
  · intro op arg h0 h15
    rw [assembleLine, if_pos ⟨h0, h15⟩, packWord_ofInt_argOf h0 h15]
  · intro op arg hop
    exact if_neg (by omega)

/-- Settles O53: TICKN repeats one word, and the others are a command under another name, SILENT with a
range of its own. -/
theorem pseudoInstructionsExpand : Obligations.PseudoInstructionsExpand := by
  refine ⟨?_, ?_, rfl, ?_, ?_, ?_, ?_⟩
  · intro k
    rw [assembleLine, if_pos (Int.natCast_nonneg k)]
    rfl
  · intro k hk
    exact if_neg (by omega)
  · intro v hlo hhi
    exact assembleInstr_init ((inS32Range_iff v).2 ⟨hlo, hhi⟩)
  · intro v hv
    exact assembleInstr_of_not_wellFormed (not_inS32Range hv)
  · intro v hlo hhi
    exact (if_pos hhi).trans (assembleInstr_block ((inS32Range_iff v).2 ⟨hlo, by omega⟩))
  · intro v hv
    by_cases hpos : v ≤ 0
    · exact (if_pos hpos).trans (assembleInstr_of_not_wellFormed (not_inS32Range (by omega)))
    · exact if_neg hpos

/-! The text form (R80). -/

/-- A hexadecimal digit reads back. -/
theorem hexDigit_hexChar (d : BitVec 4) : hexDigit (hexChar d) = some d.toNat := by
  revert d
  decide

/-- No hexadecimal digit is a separator. -/
theorem hexChar_ne_separator (d : BitVec 4) : hexChar d ≠ '_' := by
  revert d
  decide

/-- Reading one more digit of a word: what the digits above k are worth becomes what those from k on are. -/
theorem readDigits_hexDigitAt (w : CmdWord) (k : Nat) (cs : List Char) :
    readDigits 16 (w.toNat / 16 ^ (k + 1)) (hexDigitAt w k :: cs) =
      readDigits 16 (w.toNat / 16 ^ k) cs := by
  have hdigit : (w.extractLsb' (4 * k) 4).toNat = w.toNat / 16 ^ k % 16 := by
    rw [BitVec.extractLsb'_toNat, Nat.shiftRight_eq_div_pow, Nat.pow_mul]
  have hacc : 16 * (w.toNat / 16 ^ (k + 1)) + w.toNat / 16 ^ k % 16 = w.toNat / 16 ^ k := by
    rw [Nat.pow_succ, ← Nat.div_div_eq_div_mul]
    omega
  simp only [readDigits, hexDigitAt, hexDigit_hexChar, hdigit, hacc,
    Nat.mod_lt _ (by decide : 0 < 16), if_true]

/-- Reading the lowest n digits of a word after those above them. -/
theorem readDigits_lowDigits (w : CmdWord) (n : Nat) :
    readDigits 16 (w.toNat / 16 ^ n) ((List.range n).reverse.map (hexDigitAt w)) = some w.toNat := by
  induction n with
  | zero => simp [readDigits]
  | succ n ih =>
    rw [List.range_succ, List.reverse_append, List.map_append]
    exact (readDigits_hexDigitAt w n _).trans ih

/-- Without its separator the text form is the nine digits of the word, most significant first. -/
theorem filter_showCmdWord (w : CmdWord) :
    (showCmdWord w).filter (fun c => c != '_') = (List.range 9).reverse.map (hexDigitAt w) := by
  simp [showCmdWord, hexDigitAt, hexChar_ne_separator, List.range_succ]

/-- Settles O7: the separator is skipped, no digit stands above the nine, and the digits read back by
induction on their count. -/
theorem textFormReadsBack : Obligations.TextFormReadsBack := by
  intro w
  have hzero : w.toNat / 16 ^ 9 = 0 := Nat.div_eq_of_lt w.isLt
  have hread : readDigits 16 0 ((List.range 9).reverse.map (hexDigitAt w)) = some w.toNat :=
    hzero ▸ readDigits_lowDigits w 9
  have hlength : ((List.range 9).reverse.map (hexDigitAt w)).length = 9 := rfl
  simp only [readCmdWord, filter_showCmdWord, hlength, hread, if_true, Option.map_some,
    BitVec.ofNat_toNat, BitVec.setWidth_eq]

end Sys2Proof.Machine

/-! PROOFS. The setup commands NOP, INIT and RESET (spec/40_setup.md): what each writes (R91, R93, R97),
the increment as the truncated fraction of 440/srC (R94, R95), and the samples after a restart (R99). -/

namespace Sys2Proof.Machine

/-! The increment (R94, R95). -/

/-- Dropping the integer part of a/c after scaling by m leaves the scaled fraction of a/c. -/
theorem mul_div_mod_eq_mod_mul_div {c m : Nat} (a : Nat) (hc : 0 < c) (hm : 0 < m) :
    a * m / c % m = a % c * m / c := by
  have hsplit : a * m = a % c * m + c * (a / c * m) := by
    rw [← Nat.mul_assoc, ← Nat.add_mul, Nat.mod_add_div]
  have hlt : a % c * m / c < m :=
    Nat.div_lt_of_lt_mul (Nat.mul_lt_mul_of_pos_right (Nat.mod_lt a hc) hm)
  rw [hsplit, Nat.add_mul_div_left _ _ hc, Nat.add_mul_mod_self_right, Nat.mod_eq_of_lt hlt]

/-- The increment is the fraction of 440/srC scaled to 32 bits and truncated (R94). -/
theorem computePinc_toNat {c : Nat} (hc : 1 ≤ c) :
    (computePinc c).toNat = 440 % c * 2 ^ 32 / c := by
  rw [computePinc_eq hc, BitVec.toNat_ofNat, mul_div_mod_eq_mod_mul_div 440 hc (by decide)]

/-- A rate has increment 0 exactly if 440/srC has no fraction: the least remainder, scaled by 2^32, exceeds
every legal rate (R95). -/
theorem computePinc_eq_zero_iff {c : Nat} (hc : 1 ≤ c) (hmax : c ≤ 192000) :
    computePinc c = 0 ↔ c ∣ 440 := by
  have hfraction : 440 % c * 2 ^ 32 < c ↔ 440 % c = 0 := by omega
  rw [← BitVec.toNat_inj, computePinc_toNat hc, Nat.dvd_iff_mod_eq_zero, ← hfraction]
  exact Nat.div_eq_zero_iff_lt hc

/-- The divisors of 440 (R95). -/
theorem dvd_440_iff (c : Nat) :
    c ∣ 440 ↔ c ∈ [1, 2, 4, 5, 8, 10, 11, 20, 22, 40, 44, 55, 88, 110, 220, 440] := by
  have hdivisors : Nat.divisors 440 =
      {1, 2, 4, 5, 8, 10, 11, 20, 22, 40, 44, 55, 88, 110, 220, 440} := by
    simp only [Nat.divisors_ofNat]
  have hmem : c ∣ 440 ↔ c ∈ Nat.divisors 440 := by simp [Nat.mem_divisors]
  rw [hmem, hdivisors]
  simp

/-- Settles O15: the table is computed, and an increment is 0 exactly for a divisor of 440. -/
theorem incrementTable : Obligations.IncrementTable :=
  ⟨by decide, fun c hc hmax => ⟨computePinc_eq_zero_iff hc hmax, dvd_440_iff c⟩⟩

/-- Settles O16: the increment is a quotient by srC, so srC times it falls short by less than srC. -/
theorem incrementTruncatesFraction : Obligations.IncrementTruncatesFraction := by
  intro c hc _
  refine ⟨computePinc_eq hc, ?_, ?_, ?_⟩
  · rw [computePinc_eq hc, BitVec.toNat_ofNat]
  · rw [computePinc_toNat hc]
    exact Nat.div_mul_le_self _ c
  · rw [computePinc_toNat hc]
    exact (Nat.lt_mul_div_succ _ hc).trans_eq (Nat.mul_comm _ _)

/-! What each setup command writes. -/

/-- INIT by its register writes (R93). -/
theorem exec_init_eq (sr : Int) (s : State) :
    exec (.init sr) s = .next
      { s with
        src := BitVec.ofNat 18 (clampRate sr)
        pinc := BitVec.ofNat 32 (440 * 2 ^ 32 / clampRate sr)
        initDone := true
        phase := 0
        gate := false } := by
  rw [← computePinc_eq (clampRate_range sr).1]
  rfl

/-- Settles O14: INIT's writes, with the clamp as max and min, and R95 at the clamped rate. -/
theorem initLoadsRateAndIncrement : Obligations.InitLoadsRateAndIncrement := by
  refine ⟨fun sr s => ?_, decode_packWord_init, fun s t ht => ?_⟩
  · obtain ⟨hlo, hhi⟩ := clampRate_range sr
    rw [← clampRate_eq, ← computePinc_eq hlo]
    exact ⟨rfl, computePinc_eq_zero_iff hlo hhi⟩
  · have hrate : clampRate 44100 = 44100 := by decide
    obtain rfl := Host.Outcome.next.inj ((exec_init_eq 44100 s).symm.trans ht)
    simp [hrate]

/-- Settles O13: NOP is skip, and OP = 0 decodes to it whatever ARG is. -/
theorem nopChangesNothing : Obligations.NopChangesNothing :=
  ⟨fun _ => rfl, decode_packWord_nop⟩

/-- RESET writes nothing new where PHASE and GATE are clear (R97, R98). -/
theorem restart_eq_self {s : State} (hphase : s.phase = 0) (hgate : s.gate = false) :
    restart s = s := by
  rw [restart, ← hphase, ← hgate]

/-- A second RESET, or a RESET after INIT, finds PHASE and GATE clear (R97). -/
theorem exec_reset_eq_self {s : State} (hphase : s.phase = 0) (hgate : s.gate = false) :
    exec .reset s = .next s :=
  congrArg Host.Outcome.next (restart_eq_self hphase hgate)

/-- Settles O18: while Uninitialized, R31 item 1 has PHASE and GATE clear. -/
theorem resetWhileUninitializedChangesNothing :
    Obligations.ResetWhileUninitializedChangesNothing := by
  intro s hs hi
  obtain ⟨-, -, hphase, hgate⟩ := hs.uninitialized hi
  exact exec_reset_eq_self hphase hgate

/-- TICK in Ready (R114). -/
theorem exec_tick_of_initDone {s : State} (hi : s.initDone = true) :
    exec .tick s = .next (doTick s) :=
  congrArg Host.Outcome.next (if_pos hi)

/-- The phase-0 sample (R97). -/
theorem sampleAt_zero (rom : Rom) : sampleAt rom 0 = 19659 := by
  have hword : romRead .sineTable 0 = 3 := by decide
  cases rom
  rw [sampleAt, hword]
  rfl

/-- The first tick after a restart reads index 0 (R97, R112). -/
theorem tickSample_restart (s : State) : tickSample (restart s) = 19659 := by
  have hcand : tableIndex (candidatePhase (restart s)) = 0 := by simp [candidatePhase, tableIndex]
  rw [tickSample, hcand, sampleAt_zero]

/-- The first tick after a restart emits the phase-0 sample and leaves PHASE at 0 (R97, R112). -/
theorem doTick_restart (s : State) :
    doTick (restart s) = { restart s with gate := true, samples := s.samples ++ [19659] } := by
  rw [doTick, tickSample_restart]
  rfl

/-- Settles O17: RESET's two writes, which it does not repeat; then the tick at PHASE = 0. -/
theorem resetClearsPhaseAndGate : Obligations.ResetClearsPhaseAndGate := by
  refine ⟨fun _ => rfl, decode_packWord_reset, fun s t ht => ?_, fun sr s t ht => ?_,
    fun s t hi ht => ?_⟩
  all_goals obtain rfl := Host.Outcome.next.inj ht
  · exact exec_reset_eq_self rfl rfl
  · exact exec_reset_eq_self rfl rfl
  · exact (exec_tick_of_initDone (s := restart s) hi).trans
      (congrArg Host.Outcome.next (doTick_restart s))

/-- Settles O19: command by command; the registers outside are not written. -/
theorem setupCommandsFrame : Obligations.SetupCommandsFrame := by
  rintro i s (rfl | rfl | ⟨sr, rfl⟩)
  · exact ⟨s, rfl, by simp [outsideFrame]⟩
  · exact ⟨restart s, rfl, by simp [outsideFrame]⟩
  · exact ⟨_, rfl, by simp [outsideFrame]⟩

/-! The samples after a restart (R99). -/

/-- What decides the samples of the commands to come is the same in both states: what the tick rule reads,
and INIT_DONE, which decides whether a tick takes place (R99, R112, R114). -/
abbrev sameTickRegisters (s t : State) : Prop :=
  s.initDone = t.initDone ∧ s.pinc = t.pinc ∧ s.phase = t.phase ∧ s.gate = t.gate

/-- Two runs agree whose outputs began as a and b: both have appended the same samples, and what decides
the further ones is the same. -/
def SameSamplesSince (a b : List Word) (s t : State) : Prop :=
  sameTickRegisters s t ∧ ∃ l, s.samples = a ++ l ∧ t.samples = b ++ l

section

variable {a b : List Word} {s t : State}

theorem sameSamplesSince_start (h : sameTickRegisters s t) :
    SameSamplesSince s.samples t.samples s t :=
  ⟨h, [], by simp⟩

/-- INIT and RESET begin anew at the same INIT_DONE and PINC (R93, R97). -/
theorem sameSamplesSince_restart (h : SameSamplesSince a b s t) :
    SameSamplesSince a b (restart s) (restart t) := by
  obtain ⟨⟨hinit, hpinc, -, -⟩, hsamples⟩ := h
  exact ⟨⟨hinit, hpinc, rfl, rfl⟩, hsamples⟩

/-- A tick appends the same sample to both outputs, and moves both phases alike (R112, R113). -/
theorem sameSamplesSince_doTick (h : SameSamplesSince a b s t) :
    SameSamplesSince a b (doTick s) (doTick t) := by
  obtain ⟨⟨hinit, hpinc, hphase, hgate⟩, l, hs, ht⟩ := h
  refine ⟨⟨hinit, hpinc, candidatePhase_congr hphase hpinc hgate, rfl⟩, l ++ [tickSample s], ?_, ?_⟩
  · rw [doTick_samples, hs, List.append_assoc]
  · rw [doTick_samples, ht, List.append_assoc, tickSample_congr hphase hpinc hgate]

theorem sameSamplesSince_repeatTicks (h : SameSamplesSince a b s t) (n : Nat) :
    SameSamplesSince a b (repeatTicks n s) (repeatTicks n t) := by
  induction n generalizing s t with
  | zero => exact h
  | succ n ih => exact ih (sameSamplesSince_doTick h)

/-- Every command keeps two runs in agreement. -/
theorem sameSamplesSince_exec (h : SameSamplesSince a b s t) (i : Instr) :
    ∃ s' t', exec i s = .next s' ∧ exec i t = .next t' ∧ SameSamplesSince a b s' t' := by
  have hinit : s.initDone = t.initDone := h.1.1
  cases i with
  | nop => exact ⟨_, _, rfl, rfl, h⟩
  | init sr => exact ⟨_, _, rfl, rfl, ⟨rfl, rfl, rfl, rfl⟩, h.2⟩
  | reset => exact ⟨_, _, rfl, rfl, sameSamplesSince_restart h⟩
  | tick =>
    refine ⟨_, _, rfl, rfl, ?_⟩
    rw [hinit]
    split
    · exact sameSamplesSince_doTick h
    · exact h
  | block n =>
    refine ⟨_, _, rfl, rfl, ?_⟩
    rw [hinit]
    split_ifs
    · exact h
    · exact sameSamplesSince_repeatTicks h _
    · exact h

theorem transact_ok {w : CmdWord} {i : Instr} (hd : decode w = .ok i)
    (he : exec i (advancePosition s) = .next t) : transact w s = t := by
  simp only [transact, acceptCommand_ok hd, he]

theorem transact_reserved {w : CmdWord} {op : BitVec 4} (hd : decode w = .error (.reservedOp op)) :
    transact w s = setErrBadop (advancePosition s) := by
  simp only [transact, acceptCommand_reserved hd]

/-- Every command word keeps two runs in agreement, a reserved one because it writes ERR_BADOP only. -/
theorem sameSamplesSince_transact (h : SameSamplesSince a b s t) (w : CmdWord) :
    SameSamplesSince a b (transact w s) (transact w t) := by
  have h' : SameSamplesSince a b (advancePosition s) (advancePosition t) := h
  rcases hd : decode w with ⟨op⟩ | i
  · rw [transact_reserved hd, transact_reserved hd]
    exact h'
  · obtain ⟨s', t', hs, ht, hst⟩ := sameSamplesSince_exec h' i
    rw [transact_ok hd hs, transact_ok hd ht]
    exact hst

theorem sameSamplesSince_transactAll (h : SameSamplesSince a b s t) (ws : List CmdWord) :
    SameSamplesSince a b (transactAll ws s) (transactAll ws t) := by
  induction ws generalizing s t with
  | nil => exact h
  | cons w ws ih => exact ih (sameSamplesSince_transact h w)

/-- Commands that leave the output alone and the tick rule's registers the same begin two runs with the
same samples. -/
theorem sameSamples_of_start {v w : CmdWord} {s' t' : State} (ws : List CmdWord)
    (hv : transact v s = s') (hw : transact w t = t') (h : sameTickRegisters s' t')
    (hs : s'.samples = s.samples) (ht : t'.samples = t.samples) :
    ∃ l, (transactAll (v :: ws) s).samples = s.samples ++ l ∧
      (transactAll (w :: ws) t).samples = t.samples ++ l := by
  rw [transactAll, transactAll, hv, hw, ← hs, ← ht]
  exact (sameSamplesSince_transactAll (sameSamplesSince_start h) ws).2

end

/-- Settles O20: RESET and INIT clear PHASE and GATE, so what decides the samples is the same from there
on. -/
theorem restartReproducesSamples : Obligations.RestartReproducesSamples := by
  refine ⟨fun ws s t hinit hpinc => ?reset, fun ws sr sr' s t hsr hsr' hrate => ?init⟩
  case reset =>
    have hd : decode 0x200000000 = .ok .reset := by decide
    exact sameSamples_of_start ws (transact_ok hd rfl) (transact_ok hd rfl)
      ⟨hinit, hpinc, rfl, rfl⟩ rfl rfl
  case init =>
    have hclamp : clampRate sr = clampRate sr' := by rw [clampRate_eq, clampRate_eq, hrate]
    exact sameSamples_of_start ws (transact_ok (decode_encode hsr) rfl)
      (transact_ok (decode_encode hsr') rfl) ⟨rfl, congrArg computePinc hclamp, rfl, rfl⟩ rfl rfl

end Sys2Proof.Machine

/-! PROOFS. The compute commands TICK and BLOCK (spec/41_compute.md): the phase and the sample of each tick
(R112, R113, R115), what the commands write (R114, R121), and the amplitude bound (R116), which every step
keeps. -/

namespace Sys2Proof.Machine

/-! One sample (R113, R116, R118). -/

/-- Settles O27: bits 31:16 of a phase are its quotient by 65536, which 16 bits hold. -/
theorem indexClampIsIdentity : Obligations.IndexClampIsIdentity := by
  intro c
  have hc : c.toNat < 2 ^ 32 := c.isLt
  rw [tableIndex_eq, BitVec.toNat_ofNat]
  omega

/-- R54, item 1, for the ROM of any state. -/
theorem romRead_range (rom : Rom) (i : RomIndex) : -32767 ≤ romRead rom i ∧ romRead rom i ≤ 32767 := by
  obtain ⟨hlo, hhi, -, -⟩ := romSymmetries i
  cases rom
  exact ⟨hlo, hhi⟩

/-- The product with the gain does not overflow (R113). -/
theorem sampleAt_toInt (rom : Rom) (i : RomIndex) : (sampleAt rom i).toInt = romRead rom i * 6553 := by
  obtain ⟨hlo, hhi⟩ := romRead_range rom i
  rw [sampleAt, gain, BitVec.toInt_ofInt_eq_self (by decide)] <;> norm_num <;> omega

/-- Settles O28: the ROM's range keeps the product within 32 bits. -/
theorem sampleIsExactProduct : Obligations.SampleIsExactProduct :=
  fun rom i => ⟨sampleAt_toInt rom i, romRead_range rom i⟩

/-- The bound is 32767 times the gain (R116). -/
theorem sampleInBound_sampleAt (rom : Rom) (i : RomIndex) : sampleInBound (sampleAt rom i) := by
  obtain ⟨hlo, hhi⟩ := romRead_range rom i
  rw [sampleInBound, sampleAt_toInt]
  omega

theorem sampleInBound_tickSample (s : State) : sampleInBound (tickSample s) :=
  sampleInBound_sampleAt _ _

/-- The sample of a tick by its index and product (R112, R113). -/
theorem tickSample_eq (s : State) :
    tickSample s =
      BitVec.ofInt 32 (romRead s.rom (BitVec.ofNat 16 ((candidatePhase s).toNat / 65536)) * 6553) := by
  rw [← tableIndex_eq]
  rfl

/-- The sample at phase 0 (R115). -/
theorem tickSample_of_candidatePhase_zero {s : State} (h : candidatePhase s = 0) :
    tickSample s = 19659 := by
  rw [tickSample, h]
  exact sampleAt_zero s.rom

/-! The ticks of a run of TICKs (R112, R115). -/

/-- DoTick by its register writes and its sample (R112, R113). -/
theorem doTick_eq (s : State) :
    doTick s =
      { s with
        phase := if s.gate then s.phase + s.pinc else 0
        gate := true
        samples := s.samples ++
          [BitVec.ofInt 32
            (romRead s.rom (BitVec.ofNat 16 ((if s.gate then s.phase + s.pinc else 0).toNat / 65536))
              * 6553)] } := by
  rw [doTick, tickSample_eq]
  rfl

/-- Ticks do not write PINC (R110). -/
@[simp] theorem repeatTicks_pinc (n : Nat) (s : State) : (repeatTicks n s).pinc = s.pinc := by
  obtain ⟨⟨-, -, hpinc, -⟩, -⟩ := repeatTicks_frame n s
  exact hpinc

/-- The samples of n ticks, in order (R121). -/
theorem repeatTicks_samples_eq (n : Nat) (s : State) :
    (repeatTicks n s).samples =
      s.samples ++ (List.range n).map fun k => tickSample (repeatTicks k s) := by
  induction n with
  | zero => simp [repeatTicks]
  | succ n ih =>
    rw [repeatTicks_succ, doTick_samples, ih, List.range_succ, List.map_append, List.append_assoc,
      List.map_singleton]

/-- From a clear GATE the first candidate phase is 0 and each further one is PINC more (R115). -/
theorem candidatePhase_repeatTicks {s : State} (hg : s.gate = false) (n : Nat) :
    candidatePhase (repeatTicks n s) = BitVec.ofNat 32 (n * s.pinc.toNat) := by
  induction n with
  | zero => simp [repeatTicks, candidatePhase_eq, hg]
  | succ n ih =>
    calc candidatePhase (repeatTicks (n + 1) s)
        = candidatePhase (repeatTicks n s) + s.pinc := by
          rw [repeatTicks_succ, candidatePhase_eq, doTick_gate, if_pos rfl, doTick_phase, doTick_pinc,
            repeatTicks_pinc]
      _ = BitVec.ofNat 32 ((n + 1) * s.pinc.toNat) := by
          rw [ih, Nat.succ_mul, BitVec.ofNat_add, BitVec.ofNat_toNat, BitVec.setWidth_eq]

/-- With PINC = 0 ticks leave PHASE at 0 (R117). -/
theorem repeatTicks_phase_of_pinc_zero {s : State} (hpinc : s.pinc = 0) (hphase : s.phase = 0)
    (n : Nat) : (repeatTicks n s).phase = 0 := by
  induction n with
  | zero => exact hphase
  | succ n ih => simp [repeatTicks_succ, candidatePhase_eq, ih, hpinc]

/-! TICK and BLOCK by their cases (R114, R121 to R123). -/

/-- TICK in Uninitialized (R114). -/
theorem exec_tick_of_uninit {s : State} (hi : s.initDone = false) :
    exec .tick s = .next (setErrUninit s) :=
  congrArg Host.Outcome.next (if_neg (ne_true_of_eq_false hi))

/-- BLOCK without samples to produce (R123). -/
theorem exec_block_of_nonpos {n : Int} (hn : n ≤ 0) (s : State) : exec (.block n) s = .next s :=
  congrArg Host.Outcome.next (if_pos hn)

/-- BLOCK in Uninitialized (R122). -/
theorem exec_block_of_uninit {n : Int} {s : State} (hn : 0 < n) (hi : s.initDone = false) :
    exec (.block n) s = .next (setErrUninit s) :=
  congrArg Host.Outcome.next ((if_neg hn.not_ge).trans (if_neg (ne_true_of_eq_false hi)))

/-- BLOCK in Ready (R121). -/
theorem exec_block_of_initDone {n : Int} {s : State} (hi : s.initDone = true) :
    exec (.block n) s = .next (repeatTicks n.toNat s) := by
  rcases execBlock_cases n s with ⟨hn, e⟩ | ⟨-, -, e⟩ | ⟨-, hu, -⟩
  · rw [e, Int.toNat_of_nonpos hn, repeatTicks]
  · exact e
  · exact absurd (hi.symm.trans hu) (by decide)

/-- Settles O21: DoTick written out in Ready, and SetErr in Uninitialized. -/
theorem tickProducesOneSample : Obligations.TickProducesOneSample :=
  ⟨fun s hi => doTick_eq s ▸ exec_tick_of_initDone hi, fun _ hi => exec_tick_of_uninit hi,
    decode_packWord_tick⟩

/-- Settles O22: BLOCK's three cases, the ticks as an iterate of DoTick written out. -/
theorem blockProducesItsSamples : Obligations.BlockProducesItsSamples := by
  refine ⟨fun n s hn => exec_block_of_nonpos hn s, fun n s hn hi => exec_block_of_uninit hn hi,
    fun n s _ hi => ?ready, fun p s hr => ?port, decode_packWord_block⟩
  case ready => rw [exec_block_of_initDone hi, repeatTicks_eq_iterate, funext doTick_eq]
  case port =>
    have hr' : (s.remain == 0) = false := beq_false_of_ne hr
    rw [cmdReady, hr', Bool.and_false, Bool.false_and, Bool.false_and]

/-- Settles O23: the ticks of BLOCK n + 1 are tick 0 to tick n, tick k at the phase k·PINC. -/
theorem phaseAfterTicks : Obligations.PhaseAfterTicks := by
  intro n s hi hg
  have hsamples := repeatTicks_samples_eq (n + 1) s
  refine ⟨repeatTicks (n + 1) s, exec_block_of_initDone hi, ?phase, repeatTicks_gate n s, ?samples,
    ?zero⟩
  case phase => rw [repeatTicks_succ, doTick_phase, candidatePhase_repeatTicks hg]
  case samples =>
    rw [hsamples]
    congr 2
    funext k
    rw [tickSample_eq, candidatePhase_repeatTicks hg, BitVec.toNat_ofNat,
      rom_unique (repeatTicks k s).rom s.rom]
  case zero =>
    have hfirst : tickSample s = 19659 :=
      tickSample_of_candidatePhase_zero (by rw [candidatePhase_eq, hg, if_neg Bool.false_ne_true])
    rw [hsamples, List.getElem?_append_right le_rfl, Nat.sub_self, List.range_succ_eq_map,
      List.map_cons, List.getElem?_cons_zero, repeatTicks, hfirst]

/-- Settles O26: PHASE stays 0, and every tick emits the sample there. -/
theorem zeroIncrementGivesConstantOutput : Obligations.ZeroIncrementGivesConstantOutput := by
  intro n s hi hpinc hphase
  have hsample (k : Nat) : tickSample (repeatTicks k s) = 19659 := by
    apply tickSample_of_candidatePhase_zero
    simp [candidatePhase_eq, repeatTicks_phase_of_pinc_zero hpinc hphase, hpinc]
  refine ⟨repeatTicks n s, exec_block_of_initDone hi, ?_⟩
  simp only [repeatTicks_samples_eq, hsample, List.map_const', List.length_range]

section

variable {f : Host.Outcome State Fault Refusal → Instr → Host.Outcome State Fault Refusal}
  (hf : ∀ t i, f (.next t) i = exec i t)

include hf

/-- Consecutive TICKs in Ready: each performs one DoTick (R114). -/
theorem foldl_ticks_of_initDone {s : State} (hi : s.initDone = true) (n : Nat) :
    (List.replicate n Instr.tick).foldl f (.next s) = .next (repeatTicks n s) := by
  induction n generalizing s with
  | zero => rfl
  | succ n ih =>
    rw [List.replicate_succ, List.foldl_cons, hf, exec_tick_of_initDone hi]
    exact ih hi

/-- Consecutive TICKs in Uninitialized: the first sets ERR_UNINIT, the others set it again (R114). -/
theorem foldl_ticks_of_uninit {s : State} (hi : s.initDone = false) (n : Nat) :
    (List.replicate (n + 1) Instr.tick).foldl f (.next s) = .next (setErrUninit s) := by
  induction n generalizing s with
  | zero => exact (hf s .tick).trans (exec_tick_of_uninit hi)
  | succ n ih =>
    rw [List.replicate_succ, List.foldl_cons, hf, exec_tick_of_uninit hi]
    exact ih hi

end

/-- Settles O24: in Ready both sides are n DoTicks, and in Uninitialized both set ERR_UNINIT. -/
theorem blockIsConsecutiveTicks : Obligations.BlockIsConsecutiveTicks := by
  intro n s hn
  cases hi : s.initDone
  case true =>
    rw [exec_block_of_initDone hi, Int.toNat_natCast]
    exact (foldl_ticks_of_initDone (fun _ _ => rfl) hi n).symm
  case false =>
    obtain ⟨m, rfl⟩ := Nat.exists_eq_add_one.2 hn
    rw [exec_block_of_uninit (by omega) hi]
    exact (foldl_ticks_of_uninit (fun _ _ => rfl) hi m).symm

/-- R124 at n = 1. -/
theorem exec_tick_eq_block_one (s : State) : exec .tick s = exec (.block 1) s :=
  (blockIsConsecutiveTicks 1 s one_pos).symm

/-- Settles O25: TICK is BLOCK 1, and BLOCK does nothing, n DoTicks, or SetErr. -/
theorem computeCommandsFrame : Obligations.ComputeCommandsFrame := by
  intro i s hcompute
  obtain ⟨n, hn⟩ : ∃ n, exec i s = exec (.block n) s := by
    rcases hcompute with rfl | ⟨n, rfl⟩
    · exact ⟨1, exec_tick_eq_block_one s⟩
    · exact ⟨n, rfl⟩
  rw [hn]
  rcases execBlock_cases n s with ⟨-, e⟩ | ⟨-, hi, e⟩ | ⟨-, hi, e⟩
  · exact ⟨s, e, by simp [computeFrame]⟩
  · obtain ⟨hframe, herr⟩ := repeatTicks_frame n.toNat s
    have hrom := rom_unique (repeatTicks n.toNat s).rom s.rom
    exact ⟨_, e, hframe, fun _ => by rw [hrom], ⟨_, (repeatTicks_samples_eq _ s).symm⟩, fun _ => herr,
      fun hu => absurd (hi.symm.trans hu) (by decide)⟩
  · exact ⟨setErrUninit s, e, by simp [computeFrame, hi]⟩

/-! The amplitude bound (R116). -/

/-- The output of the second state is that of the first and further samples, all within the bound. -/
def AppendsInBound (s t : State) : Prop :=
  ∃ l, t.samples = s.samples ++ l ∧ ∀ v ∈ l, sampleInBound v

theorem appendsInBound_of_eq {s t : State} (h : t.samples = s.samples) : AppendsInBound s t :=
  ⟨[], by simp [h]⟩

theorem appendsInBound_repeatTicks (n : Nat) (s : State) : AppendsInBound s (repeatTicks n s) :=
  ⟨_, repeatTicks_samples_eq n s, List.forall_mem_map.2 fun _ _ => sampleInBound_tickSample _⟩

/-- Only the ticks of a command word append samples. -/
theorem appendsInBound_acceptCommand {w : CmdWord} {s t : State} (ht : acceptCommand w s = .next t) :
    AppendsInBound s t :=
  acceptCommand_elim ht (appendsInBound_of_eq rfl) (fun _ => appendsInBound_of_eq rfl)
    (appendsInBound_of_eq rfl) (fun n _ => appendsInBound_repeatTicks n (advancePosition s))
    (appendsInBound_of_eq rfl) (appendsInBound_of_eq rfl)

/-- A Ready state whose next tick reads the ROM at the given index: PINC = 0, PHASE holds the index. -/
def readyAtIndex (i : RomIndex) : State :=
  { State.reset with initDone := true, gate := true, phase := i ++ (0 : BitVec 16) }

/-- A tick can emit the sample of any index. -/
theorem exec_tick_readyAtIndex (i : RomIndex) :
    ∃ t, exec .tick (readyAtIndex i) = .next t ∧ t.samples = [sampleAt .sineTable i] := by
  have hindex : tableIndex (candidatePhase (readyAtIndex i)) = i := by
    have hcand : candidatePhase (readyAtIndex i) = i ++ (0 : BitVec 16) := BitVec.add_zero _
    rw [hcand, tableIndex]
    exact BitVec.extractLsb'_append_eq_left
  refine ⟨_, exec_tick_of_initDone rfl, ?_⟩
  rw [doTick_samples, tickSample, hindex]
  rfl

/-- A tick can emit the product of the gain and any word of the ROM. -/
theorem exists_tick_emitting {i : RomIndex} {v : Int} (hv : romRead .sineTable i * 6553 = v) :
    ∃ s t : State, s.samples = [] ∧ exec .tick s = .next t ∧ t.samples.map BitVec.toInt = [v] := by
  obtain ⟨t, ht, hsamples⟩ := exec_tick_readyAtIndex i
  exact ⟨readyAtIndex i, t, rfl, ht, by rw [hsamples, List.map_singleton, sampleAt_toInt, hv]⟩

/-- Settles O29: the bound holds of ticks, and the ROM's two peaks, at the indices 16326 and 49094, meet
it. -/
theorem emittedSamplesBounded : Obligations.EmittedSamplesBounded := by
  have htop : romRead .sineTable 16326 = 32767 := (romZerosAndPeaks 16326).2.1.2 (by decide)
  have hbottom : romRead .sineTable 49094 = -32767 := (romZerosAndPeaks 49094).2.2.2 (by decide)
  exact ⟨fun _ _ _ => appendsInBound_acceptCommand, exists_tick_emitting (by rw [htop]; rfl),
    exists_tick_emitting (by rw [hbottom]; rfl)⟩

/-- The transfer of a waiting sample moves it from the output register to the output (R162). -/
theorem amplitudeBounded_transferSample (p : Pins) {s : State} (h : s.AmplitudeBounded) :
    (transferSample p s).AmplitudeBounded := by
  obtain ⟨hsamples, hdata⟩ := h
  unfold transferSample
  split
  · exact ⟨List.forall_mem_append.2 ⟨hsamples, List.forall_mem_singleton.2 hdata⟩, hdata⟩
  · exact ⟨hsamples, hdata⟩

/-- No command writes the output or the output register at its acceptance edge (R162). -/
theorem amplitudeBounded_acceptAtEdge (k : DivCount) (w : CmdWord) {s : State}
    (h : s.AmplitudeBounded) : (acceptAtEdge k w s).1.AmplitudeBounded := by
  refine acceptAtEdge_elim k w s h (fun sr => ?init) h (fun _ => h) (fun _ _ => h) h h
  case init =>
    obtain ⟨v, n, e, -⟩ := startInit_eq k sr s
    exact e ▸ h

/-- The command side of an edge writes neither the output nor the output register (R162). -/
theorem amplitudeBounded_commandSide (k : DivCount) (p : Pins) {s : State} (h : s.AmplitudeBounded) :
    (commandSide k p s).1.AmplitudeBounded :=
  commandSide_elim k p s (fun _ => amplitudeBounded_acceptAtEdge k p.cmdWord h) (fun _ => h) (fun _ => h)

/-- A sample produced by an accepted word is the sample of a tick (R162). -/
theorem eq_tickSample_of_acceptAtEdge {k : DivCount} {w : CmdWord} {s : State} {v : Word}
    (h : (acceptAtEdge k w s).2 = some v) : v = tickSample s := by
  unfold acceptAtEdge at h
  split at h
  case h_4 =>
    split at h
    · exact (Option.some.inj h).symm
    · exact nomatch h
  all_goals exact nomatch h

/-- A sample produced at an edge is the sample of a tick (R162). -/
theorem eq_tickSample_of_commandSide {k : DivCount} {p : Pins} {s : State} {v : Word}
    (h : (commandSide k p s).2 = some v) : v = tickSample s := by
  unfold commandSide at h
  split at h
  · exact eq_tickSample_of_acceptAtEdge (s := advancePosition s) h
  · split at h
    · exact (Option.some.inj h).symm
    · exact nomatch h

/-- The output register takes only the sample produced at the edge (R162). -/
theorem amplitudeBounded_outputSide (fired : Bool) {produced : Option Word} {s : State}
    (h : s.AmplitudeBounded) (hv : ∀ v, produced = some v → sampleInBound v) :
    (outputSide fired produced s).AmplitudeBounded := by
  cases produced with
  | some v => exact ⟨h.1, hv v rfl⟩
  | none => cases fired <;> exact h

/-- An edge without reset keeps the bound. -/
theorem amplitudeBounded_runEdge (k : DivCount) (p : Pins) {s : State} (h : s.AmplitudeBounded) :
    (runEdge k p s).AmplitudeBounded := by
  have hcmd := amplitudeBounded_commandSide k p (amplitudeBounded_transferSample p h)
  refine amplitudeBounded_outputSide _ ?_
    (fun v hv => eq_tickSample_of_commandSide hv ▸ sampleInBound_tickSample _)
  split
  case isTrue => exact hcmd
  case isFalse =>
    obtain ⟨v, n, e, -⟩ := divStep_eq (commandSide k p (transferSample p s)).1
    exact e ▸ hcmd

/-- Every clock edge keeps the bound: hardware reset clears the output register (R35, R150). -/
theorem amplitudeBounded_clockEdge (k : DivCount) (p : Pins) {s : State} (h : s.AmplitudeBounded) :
    (clockEdge k p s).AmplitudeBounded := by
  unfold clockEdge
  split
  · exact ⟨h.1, (by decide : sampleInBound 0)⟩
  · exact amplitudeBounded_runEdge k p h

/-- At the transaction level no command writes the output register (R90). -/
theorem acceptCommand_smpData {w : CmdWord} {s t : State} (ht : acceptCommand w s = .next t) :
    t.smpData = s.smpData := by
  refine acceptCommand_elim (P := fun t => t.smpData = s.smpData) ht rfl (fun _ => rfl) rfl
    (fun n _ => ?ticks) rfl rfl
  case ticks =>
    obtain ⟨⟨-, -, -, -, -, -, -, hdata, -⟩, -⟩ := repeatTicks_frame n (advancePosition s)
    exact hdata

/-- Every command word keeps the bound at the transaction level. -/
theorem amplitudeBounded_acceptCommand {w : CmdWord} {s t : State} (h : s.AmplitudeBounded)
    (ht : acceptCommand w s = .next t) : t.AmplitudeBounded := by
  obtain ⟨hsamples, hdata⟩ := h
  obtain ⟨l, hl, hbound⟩ := appendsInBound_acceptCommand ht
  rw [State.AmplitudeBounded, hl, acceptCommand_smpData ht, List.forall_mem_append]
  exact ⟨⟨hsamples, hbound⟩, hdata⟩

/-- Settles O43: a step is an edge or an accepted command, and both keep the bound. -/
theorem stepKeepsAmplitudeBound : Obligations.StepKeepsAmplitudeBound := by
  intro s t h hst
  obtain rfl := Host.Outcome.next.inj ((step_eq_nextState s).symm.trans hst)
  rcases nextState_cases s with ⟨p, rest, -, e, -, -⟩ | ⟨w, rest, -, -, e, -, -⟩ | ⟨e, -, -⟩
  · exact e ▸ amplitudeBounded_clockEdge _ p (s := setInputs rest s) h
  · exact amplitudeBounded_acceptCommand (s := setInputs rest s) h e
  · exact e ▸ amplitudeBounded_clockEdge _ idlePins h

end Sys2Proof.Machine

/-! PROOFS. The error flags and the faults they record (R131 of spec/60_exceptions.md), the edge with
rst = 1 (R133, R150) and the idle block (R143). -/

namespace Sys2Proof.Machine

/-- A breach of the calling contract: a command that asks for samples of an Uninitialized block
(R131). -/
def UninitBreach (i : Instr) (s : State) : Prop :=
  s.initDone = false ∧ (i = .tick ∨ ∃ n : Int, 0 < n ∧ i = .block n)

/-- A breach sets ERR_UNINIT and nothing else (R114, R122). -/
theorem exec_of_uninitBreach {i : Instr} {s : State} (h : UninitBreach i s) :
    exec i s = .next (setErrUninit s) := by
  obtain ⟨hi, rfl | ⟨n, hn, rfl⟩⟩ := h
  · exact exec_tick_of_uninit hi
  · exact exec_block_of_uninit hn hi

/-- A command that is no breach leaves both error flags as they are (R131). -/
theorem exec_errors_of_not_uninitBreach {i : Instr} {s : State} (h : ¬ UninitBreach i s) :
    ∃ t, exec i s = .next t ∧ t.errUninit = s.errUninit ∧ t.errBadop = s.errBadop := by
  cases i with
  | nop => exact ⟨s, rfl, rfl, rfl⟩
  | init sr => exact ⟨_, exec_init_eq sr s, rfl, rfl⟩
  | reset => exact ⟨restart s, rfl, rfl, rfl⟩
  | tick =>
    have hi : s.initDone = true := by
      by_contra hi
      exact h ⟨Bool.eq_false_of_not_eq_true hi, .inl rfl⟩
    exact ⟨doTick s, exec_tick_of_initDone hi, rfl, rfl⟩
  | block n =>
    rcases execBlock_cases n s with ⟨-, e⟩ | ⟨-, -, e⟩ | ⟨hn, hi, -⟩
    · exact ⟨s, e, rfl, rfl⟩
    · obtain ⟨⟨-, -, -, hbadop, -⟩, huninit⟩ := repeatTicks_frame n.toNat s
      exact ⟨_, e, huninit, hbadop⟩
    · exact absurd ⟨hi, .inr ⟨n, hn, rfl⟩⟩ h

/-- No command writes ERR_BADOP, and exactly a breach sets ERR_UNINIT (R131). -/
theorem exec_errors {i : Instr} {s t : State} (ht : exec i s = .next t) :
    t.errBadop = s.errBadop ∧ (t.errUninit = true ↔ s.errUninit = true ∨ UninitBreach i s) := by
  by_cases hb : UninitBreach i s
  · obtain rfl := Host.Outcome.next.inj ((exec_of_uninitBreach hb).symm.trans ht)
    simp [hb]
  · obtain ⟨u, hu, huninit, hbadop⟩ := exec_errors_of_not_uninitBreach hb
    obtain rfl := Host.Outcome.next.inj (hu.symm.trans ht)
    simp [hb, huninit, hbadop]

/-- A word whose OP is reserved sets ERR_BADOP and nothing else (R76). -/
theorem acceptCommand_of_reserved {w : CmdWord} (ho : 5 ≤ (opField w).toNat) (s : State) :
    acceptCommand w s = .next (setErrBadop (advancePosition s)) :=
  (reservedWordSetsBadopOnly w 0 s ho).1

/-- A word whose OP is not reserved decodes to a command (R72). -/
theorem exists_decode_of_not_reserved {w : CmdWord} (ho : ¬ 5 ≤ (opField w).toNat) :
    ∃ i, decode w = .ok i := by
  obtain ⟨-, -, -, -, -, hreserved⟩ := decode_iff_opField w
  cases hd : decode w with
  | ok i => exact ⟨i, rfl⟩
  | error r =>
    obtain ⟨op⟩ := r
    exact absurd (hreserved.1 ⟨op, hd⟩) ho

/-- A command word sets ERR_BADOP exactly if its OP is reserved (R76, R131). -/
theorem acceptCommand_errBadop_iff {w : CmdWord} {s t : State} (ht : acceptCommand w s = .next t) :
    t.errBadop = true ↔ s.errBadop = true ∨ 5 ≤ (opField w).toNat := by
  by_cases ho : 5 ≤ (opField w).toNat
  · obtain rfl := Host.Outcome.next.inj ((acceptCommand_of_reserved ho s).symm.trans ht)
    simp [ho]
  · obtain ⟨i, hd⟩ := exists_decode_of_not_reserved ho
    obtain ⟨hbadop, -⟩ := exec_errors ((acceptCommand_ok hd s).symm.trans ht)
    simp [ho, hbadop]

/-- The faults of a run that has ended are its flags (R131, R169). -/
theorem mem_runFaults (s : State) :
    (Fault.errUninit ∈ runFaults s ↔ s.errUninit = true) ∧
      (Fault.errBadop ∈ runFaults s ↔ s.errBadop = true) := by
  simp [runFaults]

/-- Settles O33: commands by whether they are a breach, words by whether their OP is reserved. -/
theorem errorFlagsSetExactly : Obligations.ErrorFlagsSetExactly := by
  refine ⟨fun i s t ht => ?command, fun w s t ht => ⟨acceptCommand_errBadop_iff ht, fun ho => ?reserved⟩,
    mem_runFaults⟩
  case command =>
    obtain ⟨hbadop, huninit⟩ := exec_errors ht
    exact ⟨hbadop, huninit, fun hi hc =>
      Host.Outcome.next.inj (ht.symm.trans (exec_of_uninitBreach ⟨hi, hc⟩))⟩
  case reserved => exact Host.Outcome.next.inj (ht.symm.trans (acceptCommand_of_reserved ho s))

/-- Settles O38: rst = 1 holds cmd_ready low, and a hardware reset leaves the host's record. -/
theorem resetEdgeAcceptsNothing : Obligations.ResetEdgeAcceptsNothing := by
  intro k p s hr
  have hready : cmdReady p s = false := by simp [cmdReady, hr]
  have hfire : cmdFire p s = false := by rw [cmdFire, hready, Bool.and_false]
  rw [clockEdge_rst k s hr]
  exact ⟨hready, hfire, rfl, rfl, rfl⟩

/-- Settles O49: nothing is accepted and no BLOCK ticks, so only the output register can change, and that
exactly if its sample is taken. -/
theorem idleBlockHoldsState : Obligations.IdleBlockHoldsState := by
  intro k p s hr hvalid hremain hdiv
  have hfire : cmdFire p s = false := by rw [cmdFire, hvalid, Bool.false_and]
  have htick : blkTick p s = false := by simp [blkTick, hremain]
  have hout : outFire p s = true ↔ s.smpValid = true ∧ p.smpReady = true := Bool.and_eq_true_iff
  rw [clockEdge_idle k hr hdiv hfire htick, ← if_congr hout rfl rfl, transferSample]
  cases outFire p s <;> rfl

end Sys2Proof.Machine

/-! PROOFS. The schedule (log entry 2), and acceptance (R160, R162): when a command is accepted and what
each word does at its acceptance edge. -/

namespace Sys2Proof.Machine

/-! The schedule (R160, log entry 2). -/

/-- Settles O10: the three kinds of schedule are the three cases of the step. -/
theorem stepPerformsScheduledEdge : Obligations.StepPerformsScheduledEdge := by
  refine fun s rest => ⟨fun p hin => ?edge, fun w hin hbusy => ?waiting, fun hin => ?empty⟩
  case edge =>
    simp only [step, performNext, hin]
    rfl
  case waiting =>
    have hq : ¬ quiescent s = true := by
      rw [quiescent_iff, ← Bool.not_eq_true]
      tauto
    simp only [step, performNext, hin, if_neg hq]
    rfl
  case empty =>
    simp only [step, performNext, hin]
    rfl

/-! Acceptance (R160, R162). -/

/-- When the command port is ready (R160). -/
theorem cmdReady_iff (p : Pins) (s : State) :
    cmdReady p s = true ↔ p.rst = false ∧ s.remain = 0 ∧ s.divCnt = 0 ∧
      (s.smpValid = false ∨ p.smpReady = true) := by
  simp [cmdReady, outFree, and_assoc]

/-- A block with a BLOCK or an INIT in progress holds its command port (R160). -/
theorem cmdReady_of_busy {s : State} (h : s.remain ≠ 0 ∨ s.divCnt ≠ 0) (p : Pins) :
    cmdReady p s = false := by
  rw [← Bool.not_eq_true, cmdReady_iff]
  tauto

/-- Where nothing is accepted the edge does not read the word offered (R160). -/
theorem clockEdge_cmdWord {p : Pins} {s : State} (hf : cmdFire p s = false) (k : DivCount)
    (w : CmdWord) : clockEdge k { p with cmdWord := w } s = clockEdge k p s := by
  have hp : cmdFire p (transferSample p s) = false := (cmdFire_transferSample p p s).trans hf
  have hcmd : commandSide k { p with cmdWord := w } (transferSample p s) =
      commandSide k p (transferSample p s) := by
    rw [commandSide, commandSide, if_neg (ne_true_of_eq_false hp)]
    exact if_neg (ne_true_of_eq_false hp)
  have hrun : runEdge k { p with cmdWord := w } s = runEdge k p s := by
    rw [runEdge, runEdge, ← hcmd]
    rfl
  rw [clockEdge, clockEdge, hrun]

/-- Settles O44. -/
theorem commandAcceptance : Obligations.CommandAcceptance :=
  fun k p s => ⟨cmdReady_iff p s, Bool.and_eq_true_iff, fun hf => clockEdge_cmdWord hf k⟩

/-- Where the output register is free, any waiting sample is taken (R160, R162). -/
theorem outFire_of_outFree {p : Pins} {s : State} (h : s.smpValid = false ∨ p.smpReady = true) :
    outFire p s = s.smpValid := by
  rcases h with h | h <;> simp [outFire, h]

/-- Where the output register is free, any waiting sample joins the output (R162). -/
theorem transferSample_of_outFree {p : Pins} {s : State}
    (h : s.smpValid = false ∨ p.smpReady = true) :
    transferSample p s =
      { s with samples := if s.smpValid then s.samples ++ [s.smpData] else s.samples } := by
  rw [transferSample, outFire_of_outFree h]
  split <;> rfl

/-- Emptying an output register that is already empty changes nothing (R30). -/
theorem releaseSample_eq_self {s : State} (h : s.smpValid = false) : releaseSample s = s := by
  rw [releaseSample, ← h]

/-- An accepted word leaves SMP_VALID to the output side (R162). -/
@[simp] theorem acceptAtEdge_smpValid (k : DivCount) (w : CmdWord) (s : State) :
    (acceptAtEdge k w s).1.smpValid = s.smpValid := by
  refine acceptAtEdge_elim (P := fun t => t.smpValid = s.smpValid) k w s rfl (fun sr => ?init) rfl
    (fun _ => rfl) (fun _ _ => rfl) rfl rfl
  case init =>
    obtain ⟨v, n, e, -⟩ := startInit_eq k sr s
    rw [e, loadRate_smpValid]

section

variable {k : DivCount} {p : Pins} {s t : State}

/-- The acceptance edge of a word that performs no tick leaves the output register empty (R162). -/
theorem clockEdge_fire_none (hf : cmdFire p s = true)
    (ht : acceptAtEdge k p.cmdWord (advancePosition (transferSample p s)) = (t, none)) :
    clockEdge k p s = releaseSample t := by
  obtain ⟨-, -, -, -, hfree⟩ := (cmdFire_iff p s).1 hf
  have hvalid : t.smpValid = s.smpValid := by
    simpa only [ht, advancePosition_smpValid, transferSample_smpValid] using
      acceptAtEdge_smpValid k p.cmdWord (advancePosition (transferSample p s))
  rw [clockEdge_fire k hf, ht, outFire_of_outFree hfree, ← hvalid]
  cases hv : t.smpValid
  · exact (releaseSample_eq_self hv).symm
  · rfl

/-- The acceptance edge of a word that performs a tick fills the output register (R162). -/
theorem clockEdge_fire_some {v : Word} (hf : cmdFire p s = true)
    (ht : acceptAtEdge k p.cmdWord (advancePosition (transferSample p s)) = (t, some v)) :
    clockEdge k p s = latchSample v t := by
  rw [clockEdge_fire k hf, ht]
  rfl

end

section

variable {w : CmdWord} (k : DivCount) (s : State)

theorem acceptAtEdge_nop (hd : decode w = .ok .nop) : acceptAtEdge k w s = (s, none) := by
  simp only [acceptAtEdge, hd]

theorem acceptAtEdge_init {sr : Int} (hd : decode w = .ok (.init sr)) :
    acceptAtEdge k w s = (startInit k sr s, none) := by
  simp only [acceptAtEdge, hd]

theorem acceptAtEdge_reset (hd : decode w = .ok .reset) :
    acceptAtEdge k w s = (restart s, none) := by
  simp only [acceptAtEdge, hd]

theorem acceptAtEdge_tick (hd : decode w = .ok .tick) :
    acceptAtEdge k w s =
      if s.initDone then (advancePhase s, some (tickSample s)) else (setErrUninit s, none) := by
  simp only [acceptAtEdge, hd]

theorem acceptAtEdge_block {n : Int} (hd : decode w = .ok (.block n)) :
    acceptAtEdge k w s = (startBlock n s, none) := by
  simp only [acceptAtEdge, hd]

theorem acceptAtEdge_reserved {op : BitVec 4} (hd : decode w = .error (.reservedOp op)) :
    acceptAtEdge k w s = (setErrBadop s, none) := by
  simp only [acceptAtEdge, hd, acceptReserved]

end

/-- BLOCK with samples to produce loads its count into REMAIN (R162). -/
theorem startBlock_eq (n : Int) (s : State) :
    startBlock n s =
      if n ≤ 0 then s
      else if s.initDone then setRemain (BitVec.ofInt 32 n) s
      else setErrUninit s := by
  unfold startBlock
  refine ite_congr rfl (fun _ => rfl) fun hn => ?_
  have hcount : ((blockCount n : ℕ) : Int) = n := Int.toNat_of_nonneg (by omega)
  rw [← BitVec.ofInt_natCast, hcount]

/-- INIT writes the increment at once if its busy interval is one edge long (R161). -/
theorem startInit_zero (sr : Int) (s : State) :
    startInit 0 sr s = setPinc (computePinc (clampRate sr)) (setDivCnt 0 (loadRate sr s)) := by
  rw [startInit, if_pos rfl, setDivCnt_src, loadRate_src, src_of_clampRate]

/-- Settles O48: the word's own effect on the registers, after the transfer and before the output register
is emptied or filled. -/
theorem acceptanceEdgeOfEachWord : Obligations.AcceptanceEdgeOfEachWord := by
  intro k p s u hf hu
  obtain ⟨-, -, -, -, hfree⟩ := (cmdFire_iff p s).1 hf
  have htransfer := transferSample_of_outFree hfree
  have hu' : u = releaseSample (advancePosition (transferSample p s)) := by
    rw [hu, htransfer]
    rfl
  refine ⟨fun hd => ?nop, fun hd => ?reset, fun sr hd => ?init, fun hd => ?tick, fun n hd => ?block,
    fun op hd => ?reserved⟩
  case nop => rw [clockEdge_fire_none hf (acceptAtEdge_nop k _ hd), hu']
  case reset =>
    rw [clockEdge_fire_none hf (acceptAtEdge_reset k _ hd), hu']
    rfl
  case init =>
    rw [clockEdge_fire_none hf (acceptAtEdge_init k _ hd), hu', ← clampRate_eq,
      ← computePinc_eq (clampRate_range sr).1]
    by_cases hk : k = 0
    · rw [hk, startInit_zero]
      exact ⟨_, _, rfl, fun _ => ⟨rfl, transferSample_freeCount p s⟩⟩
    · obtain ⟨v, c, e, -⟩ := startInit_eq k sr (advancePosition (transferSample p s))
      exact ⟨v, c, congrArg releaseSample e, fun h => absurd h hk⟩
  case tick =>
    have htick := acceptAtEdge_tick k (advancePosition (transferSample p s)) hd
    cases hi : s.initDone
    · rw [clockEdge_fire_none hf (htick.trans (if_neg (by simp [hi]))), hu']
      rfl
    · rw [clockEdge_fire_some hf (htick.trans (if_pos (by simp [hi]))), hu, htransfer, tickSample_eq]
      rfl
  case block =>
    rw [clockEdge_fire_none hf (acceptAtEdge_block k _ hd), startBlock_eq, hu', apply_ite releaseSample,
      apply_ite releaseSample, advancePosition_initDone, transferSample_initDone]
    rfl
  case reserved =>
    rw [clockEdge_fire_none hf (acceptAtEdge_reserved k _ hd), hu']
    rfl

end Sys2Proof.Machine

/-! PROOFS. A BLOCK and an INIT in progress, edge by edge (R161, R162, R166). -/

namespace Sys2Proof.Machine

/-! A BLOCK in progress (R162, R166). -/

/-- A BLOCK whose sample cannot be handed on waits (R162). -/
theorem clockEdge_stall (k : DivCount) {p : Pins} {s : State} (hr : p.rst = false) (hd : s.divCnt = 0)
    (hremain : s.remain ≠ 0) (hfull : ¬ (s.smpValid = false ∨ p.smpReady = true)) :
    clockEdge k p s = s := by
  obtain ⟨-, hready⟩ := not_or.1 hfull
  have hfire : cmdFire p s = false := by
    rw [← Bool.not_eq_true, cmdFire_iff]
    tauto
  have htick : blkTick p s = false := by
    rw [← Bool.not_eq_true, blkTick_iff]
    tauto
  have hout : outFire p s = false := by simp [outFire, hready]
  rw [clockEdge_idle k hr hd hfire htick, transferSample, hout]
  rfl

/-- Settles O47: the edge ticks where the output register is free, and stalls where it is not. -/
theorem blockTickAtEdge : Obligations.BlockTickAtEdge := by
  intro k p s hr hremain hd
  split
  case isTrue hfree =>
    rw [clockEdge_blockTick k hr hd ((blkTick_iff p s).2 ⟨hremain, hfree⟩),
      transferSample_of_outFree hfree, tickSample_eq]
    rfl
  case isFalse hfull => exact clockEdge_stall k hr hd hremain hfull

/-- With a ready consumer each edge of a BLOCK hands the waiting sample on and leaves the next one
(R162). -/
theorem clockEdge_block_ready (k : DivCount) {p : Pins} {s : State} (hr : p.rst = false)
    (hready : p.smpReady = true) (hd : s.divCnt = 0) (hremain : 0 < s.remain.toNat) :
    (clockEdge k p s).divCnt = 0 ∧
      (clockEdge k p s).remain.toNat = s.remain.toNat - 1 ∧
      (clockEdge k p s).smpValid = true ∧
      (clockEdge k p s).samples.length = s.samples.length + s.smpValid.toNat := by
  have hne : s.remain ≠ 0 := fun h => by simp [h] at hremain
  rw [blockTickAtEdge k p s hr hne hd, if_pos (.inr hready)]
  refine ⟨hd, ?_, rfl, ?_⟩
  · exact BitVec.toNat_sub_of_le (BitVec.le_def.2 hremain)
  · cases s.smpValid <;> simp

/-- With a waiting sample and a ready consumer every edge of a BLOCK transfers one sample (R166). -/
theorem runEdges_block (k : DivCount) {ps : List Pins} {s : State} (hd : s.divCnt = 0)
    (hv : s.smpValid = true) (hps : ∀ q ∈ ps, q.rst = false ∧ q.smpReady = true)
    (hlen : ps.length ≤ s.remain.toNat) :
    (runEdges k ps s).remain.toNat = s.remain.toNat - ps.length ∧
      (runEdges k ps s).samples.length = s.samples.length + ps.length := by
  induction ps generalizing s with
  | nil => exact ⟨rfl, rfl⟩
  | cons p ps ih =>
    obtain ⟨⟨hr, hready⟩, hps⟩ := List.forall_mem_cons.1 hps
    rw [List.length_cons] at hlen
    obtain ⟨hd', hremain', hv', hsamples'⟩ := clockEdge_block_ready k hr hready hd (by omega)
    obtain ⟨hremain, hsamples⟩ := ih hd' hv' hps (by omega)
    rw [runEdges, hremain, hsamples, hremain', hsamples', hv, List.length_cons, Bool.toNat_true]
    omega

/-- Settles O52: the first edge fills the empty output register, and each further one transfers a
sample. -/
theorem blockHoldsPortForItsSamples : Obligations.BlockHoldsPortForItsSamples := by
  intro k s ps hd hv hps hlen
  have hcounts : (runEdges k ps s).remain.toNat = s.remain.toNat - ps.length ∧
      (runEdges k ps s).samples.length = s.samples.length + (ps.length - 1) := by
    cases ps with
    | nil => exact ⟨rfl, rfl⟩
    | cons p ps =>
      obtain ⟨⟨hr, hready⟩, hps⟩ := List.forall_mem_cons.1 hps
      rw [List.length_cons] at hlen
      obtain ⟨hd', hremain', hv', hsamples'⟩ := clockEdge_block_ready k hr hready hd (by omega)
      obtain ⟨hremain, hsamples⟩ := runEdges_block k hd' hv' hps (by omega)
      rw [runEdges, hremain, hsamples, hremain', hsamples', hv, List.length_cons, Bool.toNat_false]
      omega
  obtain ⟨hremain, hsamples⟩ := hcounts
  refine ⟨hremain, hsamples, fun hlt => cmdReady_of_busy (.inl fun h => ?_)⟩
  have hzero : (runEdges k ps s).remain.toNat = 0 := congrArg BitVec.toNat h
  omega

/-! The busy interval of an INIT (R161). -/

/-- What holds from the acceptance edge of INIT sr until the next command: the registers it writes, and,
once DIV_CNT is 0, its increment (R161). -/
structure LoadedBy (sr : Int) (s : State) : Prop where
  src : s.src = BitVec.ofNat 18 (clampRate sr)
  initDone : s.initDone = true
  phase : s.phase = 0
  gate : s.gate = false
  remain : s.remain = 0
  increment : s.divCnt = 0 → s.pinc = computePinc (clampRate sr)

/-- The acceptance edge of INIT sr (R161). -/
theorem loadedBy_clockEdge_init (k : DivCount) {p : Pins} {sr : Int} {s : State}
    (hf : cmdFire p s = true) (hd : decode p.cmdWord = .ok (.init sr)) :
    LoadedBy sr (clockEdge k p s) ∧ (clockEdge k p s).divCnt = k := by
  obtain ⟨-, -, hremain, -, -⟩ := (cmdFire_iff p s).1 hf
  obtain ⟨-, -, hinit, -⟩ := acceptanceEdgeOfEachWord k p s _ hf rfl
  obtain ⟨v, c, e, hv⟩ := hinit sr hd
  rw [← clampRate_eq] at e hv
  rw [e]
  exact ⟨⟨rfl, rfl, rfl, rfl, hremain,
    fun hk => (hv hk).1.trans (computePinc_eq (clampRate_range sr).1).symm⟩, rfl⟩

/-- A busy edge counts DIV_CNT down by one (R161). -/
theorem loadedBy_clockEdge_busy (k : DivCount) {p : Pins} {sr : Int} {s : State} (h : LoadedBy sr s)
    (hr : p.rst = false) (hd : 0 < s.divCnt.toNat) :
    LoadedBy sr (clockEdge k p s) ∧ (clockEdge k p s).divCnt.toNat = s.divCnt.toNat - 1 := by
  have hne : s.divCnt ≠ 0 := fun h => by simp [h] at hd
  obtain ⟨v, n, e, hv⟩ := divStep_eq (transferSample p s)
  obtain ⟨b, d, e'⟩ := outputSide_eq (outFire p s) none (divStep (transferSample p s))
  rw [clockEdge_divStep k hr hne h.remain, e', e]
  simp only [transferSample_divCnt, transferSample_src, h.src, src_of_clampRate] at hv ⊢
  refine ⟨⟨?_, ?_, ?_, ?_, ?_, fun h0 => hv (sub_eq_zero.1 h0)⟩, ?_⟩
  · rfl
  · simpa using h.initDone
  · simpa using h.phase
  · simpa using h.gate
  · simpa using h.remain
  · exact BitVec.toNat_sub_of_le (BitVec.le_def.2 hd)

/-- The busy edges of an INIT (R161). -/
theorem loadedBy_runEdges (k : DivCount) {ps : List Pins} {sr : Int} {s : State} (h : LoadedBy sr s)
    (hps : ∀ q ∈ ps, q.rst = false) (hlen : ps.length ≤ s.divCnt.toNat) :
    LoadedBy sr (runEdges k ps s) ∧ (runEdges k ps s).divCnt.toNat = s.divCnt.toNat - ps.length := by
  induction ps generalizing s with
  | nil => exact ⟨h, rfl⟩
  | cons p ps ih =>
    obtain ⟨hr, hps⟩ := List.forall_mem_cons.1 hps
    rw [List.length_cons] at hlen
    obtain ⟨h', hd'⟩ := loadedBy_clockEdge_busy k h hr (by omega)
    obtain ⟨h'', hd''⟩ := ih h' hps (by omega)
    refine ⟨h'', ?_⟩
    rw [runEdges, hd'', hd', List.length_cons]
    omega

/-- Of the words accepted at an edge only INIT writes PINC or DIV_CNT (R161, R162). -/
theorem acceptAtEdge_pinc_divCnt (k : DivCount) {w : CmdWord} (hw : ∀ v, decode w ≠ .ok (.init v))
    (s : State) :
    (acceptAtEdge k w s).1.pinc = s.pinc ∧ (acceptAtEdge k w s).1.divCnt = s.divCnt := by
  unfold acceptAtEdge
  split
  case h_2 sr hd => exact absurd hd (hw sr)
  case h_4 => split <;> exact ⟨rfl, rfl⟩
  case h_5 =>
    unfold startBlock
    split_ifs <;> exact ⟨rfl, rfl⟩
  all_goals exact ⟨rfl, rfl⟩

/-- With no INIT busy and none accepted an edge without reset keeps PINC (R22, R161). -/
theorem clockEdge_pinc_divCnt (k : DivCount) {p : Pins} {s : State} (hr : p.rst = false)
    (hd : s.divCnt = 0) (hw : cmdFire p s = true → ∀ v, decode p.cmdWord ≠ .ok (.init v)) :
    (clockEdge k p s).pinc = s.pinc ∧ (clockEdge k p s).divCnt = 0 := by
  have hcmd : (commandSide k p (transferSample p s)).1.pinc = s.pinc ∧
      (commandSide k p (transferSample p s)).1.divCnt = 0 := by
    refine commandSide_elim (P := fun t => t.pinc = s.pinc ∧ t.divCnt = 0) k p _
      (fun hf => ?fire) (fun _ => ?tick) (fun _ => ?idle)
    case fire =>
      rw [cmdFire_transferSample] at hf
      simpa [hd] using acceptAtEdge_pinc_divCnt k (hw hf) (advancePosition (transferSample p s))
    all_goals simp [hd]
  obtain ⟨v, d, e⟩ := outputSide_eq (outFire p s) (commandSide k p (transferSample p s)).2
    (commandSide k p (transferSample p s)).1
  rw [clockEdge, if_neg (ne_true_of_eq_false hr), runEdge, if_pos hd, e]
  exact hcmd

/-- With no INIT busy and none accepted PINC is kept for as long as rst stays 0 (R22, R161). -/
theorem runEdges_pinc (k : DivCount) {ps : List Pins} {s : State} (hps : ∀ q ∈ ps, q.rst = false)
    (hd : s.divCnt = 0) (hw : ∀ w ∈ acceptedWords k ps s, ∀ v, decode w ≠ .ok (.init v)) :
    (runEdges k ps s).pinc = s.pinc := by
  induction ps generalizing s with
  | nil => rfl
  | cons p ps ih =>
    obtain ⟨hr, hps⟩ := List.forall_mem_cons.1 hps
    obtain ⟨hfirst, hlater⟩ := List.forall_mem_append.1 hw
    obtain ⟨hpinc, hd'⟩ := clockEdge_pinc_divCnt k hr hd fun hf => hfirst _ (by simp [hf])
    exact (ih hps hd' hlater).trans hpinc

/-- Settles O46: the busy edges count DIV_CNT down to 0, where the increment is in PINC, and from there
on only an INIT would write it. -/
theorem initBusyInterval : Obligations.InitBusyInterval := by
  intro k p sr s hword hrange hf ps hps hlen
  have hdec : decode p.cmdWord = .ok (.init sr) := hword ▸ decode_encode (i := .init sr) hrange
  obtain ⟨hload, hdiv⟩ := loadedBy_clockEdge_init k hf hdec
  rw [← hdiv] at hlen
  obtain ⟨h, hd⟩ := loadedBy_runEdges k hload hps hlen
  rw [hdiv] at hd
  rw [← clampRate_eq, ← computePinc_eq (clampRate_range sr).1]
  refine ⟨hd, h.src, h.initDone, h.phase, h.gate, fun hlt => cmdReady_of_busy (.inr fun h0 => ?busy),
    fun hend qs hqs hw => ?kept⟩
  case busy =>
    have hzero : (runEdges k ps (clockEdge k p s)).divCnt.toNat = 0 := congrArg BitVec.toNat h0
    omega
  case kept =>
    have h0 : (runEdges k ps (clockEdge k p s)).divCnt = 0 :=
      BitVec.eq_of_toNat_eq (by rw [hd, hend, Nat.sub_self]; rfl)
    exact (runEdges_pinc k hqs h0 hw).trans (h.increment h0)

end Sys2Proof.Machine

/-! PROOFS. Runs as the steps that make them up (R169, log entry 15): where a run ends, which words are its
sequence, and where later runs start. -/

namespace Sys2Proof.Machine

/-- The words accepted by the first m steps, in order. -/
def acceptedIn (m : Nat) (s : State) : List CmdWord :=
  (List.range m).filterMap fun i => acceptedByStep (nextState^[i] s)

theorem acceptedIn_succ (m : Nat) (s : State) :
    acceptedIn (m + 1) s = (acceptedByStep s).toList ++ acceptedIn m (nextState s) := by
  rw [acceptedIn, List.range_succ_eq_map, List.filterMap_cons, List.filterMap_map]
  cases h : acceptedByStep s <;> simp [acceptedIn, Function.comp_def, h]

/-- None of the first j steps is a reset edge that follows an accepted command; begun says that one has
been accepted before them. -/
def Uncut (begun : Bool) (s : State) (j : Nat) : Prop :=
  ∀ m < j, resetStep (nextState^[m] s) = true → begun = false ∧ acceptedIn m s = []

theorem uncut_succ (begun : Bool) (s : State) (j : Nat) :
    Uncut begun s (j + 1) ↔
      (begun && resetStep s) = false ∧ Uncut (begun || (acceptedByStep s).isSome) (nextState s) j := by
  simp only [Uncut, Nat.forall_lt_succ_left, acceptedIn_succ]
  refine and_congr ?_ ?_
  · cases begun <;> simp [acceptedIn]
  · cases begun <;> cases acceptedByStep s <;> simp

/-! The end of a run. -/

/-- R169's conditions hold after j steps for the first time, and no reset edge has cut the run off. -/
structure EndsAfter (begun : Bool) (left : List CmdWord) (s : State) (j : Nat) : Prop where
  accepted : acceptedIn j s = left
  idle : quiescent (nextState^[j] s) = true
  first : ∀ m < j, ¬(acceptedIn m s = left ∧ quiescent (nextState^[m] s) = true)
  uncut : Uncut begun s j

theorem runEnded_iff (left : List CmdWord) (s : State) :
    runEnded left s = true ↔ [] = left ∧ quiescent s = true := by
  rw [runEnded, Bool.and_eq_true, List.isEmpty_iff, eq_comm]

theorem endsAfter_zero (begun : Bool) (left : List CmdWord) (s : State) :
    EndsAfter begun left s 0 ↔ runEnded left s = true := by
  rw [runEnded_iff]
  exact ⟨fun h => ⟨h.accepted, h.idle⟩, fun ⟨ha, hq⟩ =>
    ⟨ha, hq, fun m hm => absurd hm m.not_lt_zero, fun m hm => absurd hm m.not_lt_zero⟩⟩

/-- A run that has not ended goes on after a step with what that step left of its sequence. -/
theorem endsAfter_succ (begun : Bool) (left : List CmdWord) (s : State) (j : Nat) :
    EndsAfter begun left s (j + 1) ↔
      ¬ runEnded left s = true ∧ (begun && resetStep s) = false ∧
        ∃ rest, left = (acceptedByStep s).toList ++ rest ∧
          EndsAfter (begun || (acceptedByStep s).isSome) rest (nextState s) j := by
  rw [runEnded_iff]
  constructor
  · rintro ⟨rfl, hq, hfirst, hcut⟩
    rw [uncut_succ] at hcut
    rw [Nat.forall_lt_succ_left] at hfirst
    refine ⟨hfirst.1, hcut.1, acceptedIn j (nextState s), acceptedIn_succ j s, rfl, hq, ?_, hcut.2⟩
    simpa only [acceptedIn_succ, List.append_cancel_left_eq, Function.iterate_succ_apply] using hfirst.2
  · rintro ⟨hnow, hreset, rest, rfl, ha, hq, hfirst, hcut⟩
    refine ⟨by rw [acceptedIn_succ, ha], hq, Nat.forall_lt_succ_left.2 ⟨hnow, ?_⟩,
      (uncut_succ begun s j).2 ⟨hreset, hcut⟩⟩
    simpa only [acceptedIn_succ, List.append_cancel_left_eq, Function.iterate_succ_apply] using hfirst

theorem endOfRun_succ_iff {n : Nat} {begun : Bool} {left : List CmdWord} {s t : State}
    (he : ¬ runEnded left s = true) :
    endOfRun (n + 1) begun left s = some t ↔
      (begun && resetStep s) = false ∧
        ∃ rest, left = (acceptedByStep s).toList ++ rest ∧
          endOfRun n (begun || (acceptedByStep s).isSome) rest (nextState s) = some t := by
  constructor
  · intro h
    rcases endOfRun_succ_cases h with ⟨rfl, hq, -⟩ | ⟨hr, ha, h⟩ | ⟨w, rest, rfl, hr, ha, h⟩
    · exact absurd ((runEnded_iff [] s).2 ⟨rfl, hq⟩) he
    · exact ⟨hr, left, by simp [ha], by simpa [ha] using h⟩
    · exact ⟨hr, rest, by simp [ha], by simpa [ha] using h⟩
  · rintro ⟨hr, rest, rfl, h⟩
    unfold endOfRun
    rw [if_neg he, hr, if_neg Bool.false_ne_true]
    cases ha : acceptedByStep s <;> simpa [ha] using h

/-- A search for the end of a run finds the state after the first step that meets R169's conditions. -/
theorem endOfRun_iff {n : Nat} {begun : Bool} {left : List CmdWord} {s t : State} :
    endOfRun n begun left s = some t ↔
      ∃ j < n + 1, t = nextState^[j] s ∧ EndsAfter begun left s j := by
  induction n generalizing begun left s with
  | zero =>
    rw [Nat.exists_lt_succ_left, endsAfter_zero, endOfRun, Option.ite_none_right_eq_some,
      Option.some.injEq]
    simp [and_comm, eq_comm (a := t)]
  | succ n ih =>
    rw [Nat.exists_lt_succ_left, endsAfter_zero]
    by_cases he : runEnded left s = true
    · simp [endOfRun_of_ended he, he, endsAfter_succ, eq_comm (a := t)]
    · rw [endOfRun_succ_iff he]
      constructor
      · rintro ⟨hreset, rest, hleft, hend⟩
        obtain ⟨j, hj, ht, h⟩ := ih.1 hend
        exact .inr ⟨j, hj, ht, (endsAfter_succ begun left s j).2 ⟨he, hreset, rest, hleft, h⟩⟩
      · rintro (⟨-, h⟩ | ⟨j, hj, ht, h⟩)
        · exact absurd h he
        · obtain ⟨-, hreset, rest, hleft, h⟩ := (endsAfter_succ begun left s j).1 h
          exact ⟨hreset, rest, hleft, ih.2 ⟨j, hj, ht, h⟩⟩

/-- Settles O54: by induction on the steps looked at. -/
theorem runEndsAtFirstEdge : Obligations.RunEndsAtFirstEdge := by
  intro n sequence s t
  rw [endOfRun_iff]
  constructor
  · rintro ⟨j, hj, rfl, ha, hq, hfirst, hcut⟩
    obtain ⟨hremain, hdiv, hsmp⟩ := (quiescent_iff _).1 hq
    exact ⟨j, Nat.le_of_lt_succ hj, rfl, ha, hremain, hdiv, hsmp, hfirst,
      fun m hm hr => (hcut m hm hr).2⟩
  · rintro ⟨j, hj, rfl, ha, hremain, hdiv, hsmp, hfirst, hcut⟩
    exact ⟨j, Nat.lt_succ_of_le hj, rfl, ha, (quiescent_iff _).2 ⟨hremain, hdiv, hsmp⟩, hfirst,
      fun m hm hr => ⟨rfl, hcut m hm hr⟩⟩

/-! The sequence of a run. -/

theorem sequenceOfRun_succ (n : Nat) (begun : Bool) (s : State) :
    sequenceOfRun (n + 1) begun s =
      if begun && resetStep s then []
      else (acceptedByStep s).toList ++
        sequenceOfRun n (begun || (acceptedByStep s).isSome) (nextState s) := by
  rw [sequenceOfRun]
  cases acceptedByStep s <;> simp

/-- The sequence of a run is the words accepted until a reset edge cuts the run off, or in all n steps. -/
theorem sequenceOfRun_eq_acceptedIn (n : Nat) (begun : Bool) (s : State) :
    ∃ j ≤ n, sequenceOfRun n begun s = acceptedIn j s ∧
      (j = n ∨ resetStep (nextState^[j] s) = true ∧ (begun = true ∨ acceptedIn j s ≠ [])) ∧
      Uncut begun s j := by
  induction n generalizing begun s with
  | zero => exact ⟨0, le_rfl, rfl, .inl rfl, fun m hm => absurd hm m.not_lt_zero⟩
  | succ n ih =>
    rw [sequenceOfRun_succ]
    split
    case isTrue h =>
      rw [Bool.and_eq_true] at h
      exact ⟨0, Nat.zero_le _, rfl, .inr ⟨h.2, .inl h.1⟩, fun m hm => absurd hm m.not_lt_zero⟩
    case isFalse h =>
      obtain ⟨j, hj, e, hstop, hcut⟩ := ih (begun || (acceptedByStep s).isSome) (nextState s)
      refine ⟨j + 1, Nat.succ_le_succ hj, by rw [e, acceptedIn_succ],
        hstop.imp (congrArg _) (And.imp_right ?_), (uncut_succ begun s j).2 ⟨by simpa using h, hcut⟩⟩
      rw [acceptedIn_succ]
      cases acceptedByStep s <;> simp

/-- Settles O58. -/
theorem sequenceOfRunIsItsAcceptedWords : Obligations.SequenceOfRunIsItsAcceptedWords := by
  intro n s
  obtain ⟨j, hj, e, hstop, hcut⟩ := sequenceOfRun_eq_acceptedIn n false s
  refine ⟨j, hj, e, hstop.imp_right (And.imp_right fun h => ?_), fun m hm hr => (hcut m hm hr).2⟩
  rw [e]
  exact h.resolve_left Bool.false_ne_true

/-! The starts of later runs. -/

/-- A reset edge accepts no command (R133). -/
theorem acceptedByStep_of_resetStep {s : State} (h : resetStep s = true) : acceptedByStep s = none := by
  rcases nextState_cases s with ⟨p, rest, -, -, ha, hr⟩ | ⟨w, rest, -, -, -, -, hr⟩ | ⟨-, -, hr⟩
  · obtain ⟨-, hf, -⟩ := resetEdgeAcceptsNothing 0 p s (hr.symm.trans h)
    rw [ha, hf, if_neg Bool.false_ne_true]
  all_goals exact absurd (hr.symm.trans h) Bool.false_ne_true

/-- The step into the state is a hardware reset (R150). -/
theorem hardwareReset_nextState {s : State} (h : resetStep s = true) :
    hardwareReset (nextState s) = nextState s := by
  rcases nextState_cases s with ⟨p, rest, -, e, -, hr⟩ | ⟨w, rest, -, -, -, -, hr⟩ | ⟨-, -, hr⟩
  · rw [e, clockEdge_rst _ _ (hr.symm.trans h)]
    rfl
  all_goals exact absurd (hr.symm.trans h) Bool.false_ne_true

/-- Whether the run has a command after the step from this state: a reset edge leaves none. -/
def begunAfter (begun : Bool) (s : State) : Bool :=
  !resetStep s && (begun || (acceptedByStep s).isSome)

/-- Whether the run that is going on after m steps has accepted a command. -/
def begunAt : Nat → Bool → State → Bool
  | 0, begun, _ => begun
  | m + 1, begun, s => begunAt m (begunAfter begun s) (nextState s)

theorem begunAt_succ (m : Nat) (begun : Bool) (s : State) :
    begunAt (m + 1) begun s = begunAfter (begunAt m begun s) (nextState^[m] s) := by
  induction m generalizing begun s with
  | zero => rfl
  | succ m ih => exact ih (begunAfter begun s) (nextState s)

/-- A run has begun if a command was accepted with no reset edge since. -/
theorem begunAt_iff (m : Nat) (s : State) :
    begunAt m false s = true ↔
      ∃ i < m, (acceptedByStep (nextState^[i] s)).isSome = true ∧
        ∀ l, i < l → l < m → resetStep (nextState^[l] s) = false := by
  induction m with
  | zero => simp [begunAt]
  | succ m ih =>
    have hbetween {i : Nat} (hi : i < m) :
        (∀ l, i < l → l < m + 1 → resetStep (nextState^[l] s) = false) ↔
          (∀ l, i < l → l < m → resetStep (nextState^[l] s) = false) ∧
            resetStep (nextState^[m] s) = false :=
      ⟨fun h => ⟨fun l hil hl => h l hil (by omega), h m hi (by omega)⟩, fun ⟨h, hm⟩ l hil hl =>
        (Nat.lt_succ_iff_lt_or_eq.1 hl).elim (h l hil) fun e => e ▸ hm⟩
    have hlast : (acceptedByStep (nextState^[m] s)).isSome = true →
        resetStep (nextState^[m] s) = false := fun ha => by
      by_contra hr
      simp [acceptedByStep_of_resetStep (Bool.eq_true_of_not_eq_false hr)] at ha
    rw [begunAt_succ, Nat.exists_lt_succ_right, begunAfter, Bool.and_eq_true, Bool.or_eq_true, ih]
    constructor
    · rintro ⟨hr, ⟨i, hi, ha, h⟩ | ha⟩
      · exact .inl ⟨i, hi, ha, (hbetween hi).2 ⟨h, by simpa using hr⟩⟩
      · exact .inr ⟨ha, fun l hl hl' => absurd hl (by omega)⟩
    · rintro (⟨i, hi, ha, h⟩ | ⟨ha, -⟩)
      · obtain ⟨h, hr⟩ := (hbetween hi).1 h
        exact ⟨by simpa using hr, .inl ⟨i, hi, ha, h⟩⟩
      · exact ⟨by simpa using hlast ha, .inr ha⟩

theorem runStarts_succ (n : Nat) (begun : Bool) (s : State) :
    runStarts (n + 1) begun s =
      (if begun && resetStep s then [nextState s] else []) ++
        runStarts n (begunAfter begun s) (nextState s) := by
  rw [runStarts, begunAfter]
  cases hr : resetStep s
  · simp
  · cases begun <;> simp [acceptedByStep_of_resetStep hr]

/-- Later runs start after the reset edges of runs that have begun. -/
theorem mem_runStarts {n : Nat} {begun : Bool} {s u : State} :
    u ∈ runStarts n begun s ↔
      ∃ m < n, u = nextState^[m + 1] s ∧ resetStep (nextState^[m] s) = true ∧
        begunAt m begun s = true := by
  induction n generalizing begun s with
  | zero => simp [runStarts]
  | succ n ih =>
    rw [runStarts_succ, List.mem_append, ih, Nat.exists_lt_succ_left]
    refine or_congr ?_ Iff.rfl
    cases begun <;> simp [begunAt, and_comm]

/-- Settles O57. -/
theorem laterRunsStartFromReset : Obligations.LaterRunsStartFromReset := by
  refine ⟨fun n s u => ?_, fun n s u hu => ?_⟩
  · simp only [mem_runStarts, begunAt_iff]
  · obtain ⟨m, -, rfl, hr, -⟩ := mem_runStarts.1 hu
    rw [Function.iterate_succ_apply']
    exact hardwareReset_nextState hr

end Sys2Proof.Machine

/-! PROOFS. The two levels agree (R163): two states that the transaction level cannot tell apart stay so
under every command word, and each clock edge refines the word that it accepts. -/

namespace Sys2Proof.Machine

/-! What the transaction level sees. -/

/-- Two runs whose outputs began as a and b agree to the transaction level: its registers are the same,
and the samples appended. -/
def AgreeSince (a b : List Word) (s t : State) : Prop :=
  SameSamplesSince a b s t ∧ s.src = t.src ∧ s.errUninit = t.errUninit ∧ s.errBadop = t.errBadop

/-- With nothing before them two outputs that agree are the same. -/
theorem agreeSince_nil_iff (s t : State) :
    AgreeSince [] [] s t ↔ s.transactionView = t.transactionView := by
  have hsamples : (∃ l, s.samples = [] ++ l ∧ t.samples = [] ++ l) ↔ s.samples = t.samples :=
    ⟨fun ⟨_, hs, ht⟩ => hs.trans ht.symm, fun h => ⟨t.samples, h, rfl⟩⟩
  simp only [AgreeSince, SameSamplesSince, sameTickRegisters, State.transactionView, hsamples,
    TransactionView.mk.injEq]
  tauto

/-- Of the commands only INIT writes SRC, and what it writes does not depend on the state (R93). -/
theorem exec_src_congr {i : Instr} {s t s' t' : State} (hs : exec i s = .next s')
    (ht : exec i t = .next t') (h : s.src = t.src) : s'.src = t'.src := by
  have hcompute {s s' : State} (hi : i = .tick ∨ ∃ n, i = .block n) (hs : exec i s = .next s') :
      s'.src = s.src := by
    obtain ⟨u, hu, ⟨-, hsrc, -⟩, -⟩ := computeCommandsFrame i s hi
    exact Host.Outcome.next.inj (hu.symm.trans hs) ▸ hsrc
  cases i with
  | nop => exact Host.Outcome.next.inj hs ▸ Host.Outcome.next.inj ht ▸ h
  | init sr => exact Host.Outcome.next.inj hs ▸ Host.Outcome.next.inj ht ▸ rfl
  | reset => exact Host.Outcome.next.inj hs ▸ Host.Outcome.next.inj ht ▸ h
  | tick => rw [hcompute (.inl rfl) hs, hcompute (.inl rfl) ht, h]
  | block n => rw [hcompute (.inr ⟨n, rfl⟩) hs, hcompute (.inr ⟨n, rfl⟩) ht, h]

section

variable {a b : List Word} {s t : State}

theorem agreeSince_repeatTicks (h : AgreeSince a b s t) (n : Nat) :
    AgreeSince a b (repeatTicks n s) (repeatTicks n t) := by
  obtain ⟨hsamples, hsrc, huninit, hbadop⟩ := h
  obtain ⟨⟨-, hs, -, hsb, -⟩, hsu⟩ := repeatTicks_frame n s
  obtain ⟨⟨-, ht, -, htb, -⟩, htu⟩ := repeatTicks_frame n t
  refine ⟨sameSamplesSince_repeatTicks hsamples n, ?_, ?_, ?_⟩
  · rw [hs, ht, hsrc]
  · rw [hsu, htu, huninit]
  · rw [hsb, htb, hbadop]

/-- Every command word keeps two runs in agreement: the flags it sets depend on INIT_DONE alone (R131). -/
theorem agreeSince_transact (h : AgreeSince a b s t) (w : CmdWord) :
    AgreeSince a b (transact w s) (transact w t) := by
  obtain ⟨hsamples, hsrc, huninit, hbadop⟩ := h
  refine ⟨sameSamplesSince_transact hsamples w, ?_⟩
  rcases hd : decode w with ⟨op⟩ | i
  · rw [transact_reserved hd, transact_reserved hd]
    exact ⟨hsrc, huninit, rfl⟩
  · have hinit : s.initDone = t.initDone := hsamples.1.1
    obtain ⟨s', t', hs, ht, -⟩ := sameSamplesSince_exec (s := advancePosition s)
      (t := advancePosition t) hsamples i
    obtain ⟨hsb, hsu⟩ := exec_errors hs
    obtain ⟨htb, htu⟩ := exec_errors ht
    rw [transact_ok hd hs, transact_ok hd ht]
    refine ⟨exec_src_congr hs ht hsrc, ?_, ?_⟩
    · rw [Bool.eq_iff_iff, hsu, htu]
      simp [UninitBreach, hinit, huninit]
    · rw [hsb, htb]
      exact hbadop

theorem agreeSince_transactAll (h : AgreeSince a b s t) (ws : List CmdWord) :
    AgreeSince a b (transactAll ws s) (transactAll ws t) := by
  induction ws generalizing s t with
  | nil => exact h
  | cons w ws ih => exact ih (agreeSince_transact h w)

theorem repeatTicks_view_congr (h : s.transactionView = t.transactionView) (n : Nat) :
    (repeatTicks n s).transactionView = (repeatTicks n t).transactionView :=
  (agreeSince_nil_iff _ _).1 (agreeSince_repeatTicks ((agreeSince_nil_iff s t).2 h) n)

theorem transactAll_view_congr (h : s.transactionView = t.transactionView) (ws : List CmdWord) :
    (transactAll ws s).transactionView = (transactAll ws t).transactionView :=
  (agreeSince_nil_iff _ _).1 (agreeSince_transactAll ((agreeSince_nil_iff s t).2 h) ws)

end

theorem transactAll_append (vs ws : List CmdWord) (s : State) :
    transactAll (vs ++ ws) s = transactAll ws (transactAll vs s) := by
  induction vs generalizing s with
  | nil => rfl
  | cons v vs ih => exact ih (transact v s)

theorem transact_of_next {w : CmdWord} {s t : State} (h : acceptCommand w s = .next t) :
    transact w s = t := by
  simp only [transact, h]

/-! The work in progress, carried to its end. -/

/-- The sample in the output register, if it is full (R30). -/
def waiting (s : State) : List Word :=
  if s.smpValid then [s.smpData] else []

/-- The increment once no INIT is busy (R161). -/
def pendingPinc (s : State) : Word :=
  if s.divCnt = 0 then s.pinc else computePinc s.src.toNat

/-- The state with the waiting sample delivered and the increment of a busy INIT written. -/
def settled (s : State) : State :=
  { s with samples := s.samples ++ waiting s, pinc := pendingPinc s }

/-- Work in progress is carried to its end by the ticks of a BLOCK, when the rest is settled. -/
theorem finishPending_eq (s : State) : finishPending s = repeatTicks s.remain.toNat (settled s) := by
  rw [finishPending, settled, waiting, pendingPinc]
  congr 1
  split <;> split <;> simp [emitSample, setPinc]

theorem finishPending_of_remain {s : State} (h : s.remain = 0) : finishPending s = settled s := by
  rw [finishPending_eq, h]
  rfl

theorem settled_eq_self {s : State} (hd : s.divCnt = 0) (hv : s.smpValid = false) : settled s = s := by
  rw [settled, waiting, pendingPinc, if_pos hd, if_neg (ne_true_of_eq_false hv), List.append_nil]

theorem finishPending_of_quiescent {s : State} (h : quiescent s = true) : finishPending s = s := by
  obtain ⟨hremain, hdiv, hsmp⟩ := (quiescent_iff s).1 h
  rw [finishPending_of_remain hremain, settled_eq_self hdiv hsmp]

theorem finishPending_view_congr {s t : State}
    (h : (settled s).transactionView = (settled t).transactionView) (hr : s.remain = t.remain) :
    (finishPending s).transactionView = (finishPending t).transactionView := by
  rw [finishPending_eq, finishPending_eq, hr]
  exact repeatTicks_view_congr h _

/-- With an empty output register and no INIT busy only the ticks are pending. -/
theorem finishPending_releaseSample {s : State} (hd : s.divCnt = 0) :
    (finishPending (releaseSample s)).transactionView =
      (repeatTicks s.remain.toNat s).transactionView := by
  have hsettled : settled (releaseSample s) = releaseSample s := settled_eq_self hd rfl
  rw [finishPending_eq, hsettled]
  exact repeatTicks_view_congr (s := releaseSample s) (t := s) rfl _

/-- With a full output register and no INIT busy its sample comes before the pending ticks. -/
theorem finishPending_latchSample {s : State} (hd : s.divCnt = 0) (v : Word) :
    (finishPending (latchSample v s)).transactionView =
      (repeatTicks s.remain.toNat (emitSample v s)).transactionView := by
  have hpinc : pendingPinc (latchSample v s) = s.pinc := if_pos hd
  have hsettled : (settled (latchSample v s)).transactionView = (emitSample v s).transactionView := by
    rw [settled, hpinc]
    rfl
  rw [finishPending_eq]
  exact repeatTicks_view_congr hsettled _

/-- Where the output register is free and no INIT is busy, the transfer settles the state. -/
theorem transferSample_eq_settled {p : Pins} {s : State} (hd : s.divCnt = 0)
    (hfree : s.smpValid = false ∨ p.smpReady = true) : transferSample p s = settled s := by
  rw [transferSample, outFire_of_outFree hfree, settled, waiting, pendingPinc, if_pos hd]
  split
  · rfl
  · rw [List.append_nil]

/-! Each edge (R163). -/

/-- An edge that performs no tick and accepts nothing hands a waiting sample on or keeps it: it may go on
with an INIT, but neither the sample nor the increment to be written changes (R161, R162). -/
theorem finishPending_outputSide (p : Pins) (s : State) {c : DivCount} {v : Word} (n : Nat)
    (hpinc : (if c = 0 then v else computePinc s.src.toNat) = pendingPinc s) :
    (finishPending (outputSide (outFire p s) none
      { transferSample p s with divCnt := c, pinc := v, freeCount := n })).transactionView =
      (finishPending s).transactionView := by
  rw [pendingPinc] at hpinc
  refine finishPending_view_congr ?_ ?_ <;>
    cases hvalid : s.smpValid <;> cases hready : p.smpReady <;>
    simp [outputSide, transferSample, outFire, settled, waiting, pendingPinc, State.transactionView,
      hvalid, hready] <;>
    exact hpinc

/-- A block tick is the first of the ticks that are still to be performed (R121, R162). -/
theorem finishPending_clockEdge_blockTick (k : DivCount) {p : Pins} {s : State} (hr : p.rst = false)
    (hd : s.divCnt = 0) (hb : blkTick p s = true) :
    (finishPending (clockEdge k p s)).transactionView = (finishPending s).transactionView := by
  obtain ⟨hn, hfree⟩ := (blkTick_iff p s).1 hb
  have hpos : 1 ≤ s.remain.toNat := Nat.pos_of_ne_zero fun e => hn (BitVec.eq_of_toNat_eq e)
  have hcount : s.remain.toNat = (s.remain - 1).toNat + 1 := by
    have hsub : (s.remain - 1).toNat = s.remain.toNat - 1 :=
      BitVec.toNat_sub_of_le (BitVec.le_def.2 hpos)
    omega
  have hsample : tickSample s = tickSample (settled s) := tickSample_congr rfl (if_pos hd).symm rfl
  rw [clockEdge_blockTick k hr hd hb, transferSample_eq_settled hd hfree, hsample,
    finishPending_latchSample (s := setRemain (s.remain - 1) (advancePhase (settled s))) hd,
    finishPending_eq, hcount]
  exact repeatTicks_view_congr (t := doTick (settled s)) (by rfl) _

/-- An edge that accepts no command only carries on with the work in progress (R163). -/
theorem finishPending_clockEdge (k : DivCount) {p : Pins} {s : State} (h : s.Consistent)
    (hr : p.rst = false) (hf : cmdFire p s = false) :
    (finishPending (clockEdge k p s)).transactionView = (finishPending s).transactionView := by
  rcases clockEdge_cases k p s (fun hn => (h.blockBusy hn).2) with
    ⟨hrst, -⟩ | ⟨-, hfire⟩ | ⟨-, -, hd, hb⟩ | ⟨-, -, hd, hn⟩ | ⟨-, -, hd, hb⟩
  case inl => exact absurd (hrst.symm.trans hr) (by decide)
  case inr.inl => exact absurd (hfire.symm.trans hf) (by decide)
  case inr.inr.inl => exact finishPending_clockEdge_blockTick k hr hd hb
  case inr.inr.inr.inl =>
    obtain ⟨v, n, e, hv⟩ := divStep_eq (transferSample p s)
    have hlast : s.divCnt - 1 = 0 → v = computePinc s.src.toNat := fun h0 => by
      simpa using hv (by simpa using sub_eq_zero.1 h0)
    rw [clockEdge_divStep k hr hd hn, e]
    refine finishPending_outputSide p s n ?_
    rw [pendingPinc, if_neg hd, transferSample_divCnt]
    exact ite_eq_right_iff.2 hlast
  case inr.inr.inr.inr =>
    rw [clockEdge_idle k hr hd hf hb]
    refine finishPending_outputSide p s (c := (transferSample p s).divCnt) (v := (transferSample p s).pinc)
      (transferSample p s).freeCount ?_
    simp [pendingPinc]

/-- The operand of a decoded BLOCK with samples to produce fits REMAIN (R28, R71). -/
theorem remain_of_block {w : CmdWord} {n : Int} (hd : decode w = .ok (.block n)) (hn : 0 < n) :
    (BitVec.ofInt 32 n).toNat = n.toNat := by
  obtain ⟨hrange, -⟩ := encodeOfDecodeIsWord w (.block n) hd
  obtain ⟨-, hmax⟩ := (inS32Range_iff n).1 hrange
  rw [BitVec.toNat_ofInt, Int.emod_eq_of_lt] <;> omega

/-- An INIT under way amounts to the INIT of the transaction level (R93, R161). -/
theorem finishPending_startInit (k : DivCount) (sr : Int) {s : State} (hr : s.remain = 0) :
    (finishPending (releaseSample (startInit k sr s))).transactionView =
      (setPinc (computePinc (clampRate sr)) (loadRate sr s)).transactionView := by
  obtain ⟨v, n, e, hv⟩ := startInit_eq k sr s
  have hpinc : pendingPinc (releaseSample (startInit k sr s)) = computePinc (clampRate sr) := by
    have hsrc := congrArg computePinc (src_of_clampRate sr)
    rw [e]
    exact (ite_eq_right_iff.2 fun hk => (hv hk).trans hsrc.symm).trans hsrc
  have hremain : (releaseSample (startInit k sr s)).remain = 0 := by rw [e]; exact hr
  rw [finishPending_of_remain hremain, settled, hpinc, e]
  simp [State.transactionView, waiting]

/-- An edge that accepts a word carries on with that word's transaction (R163). -/
theorem finishPending_clockEdge_fire (k : DivCount) {p : Pins} {s : State} (hf : cmdFire p s = true) :
    (finishPending (clockEdge k p s)).transactionView =
      (transact p.cmdWord (finishPending s)).transactionView := by
  obtain ⟨-, -, hremain, hdiv, hfree⟩ := (cmdFire_iff p s).1 hf
  have hnone {t : State} (ht : acceptAtEdge k p.cmdWord (advancePosition (settled s)) = (t, none)) :
      clockEdge k p s = releaseSample t :=
    clockEdge_fire_none hf ((transferSample_eq_settled hdiv hfree).symm ▸ ht)
  have hsome {t : State} {v : Word}
      (ht : acceptAtEdge k p.cmdWord (advancePosition (settled s)) = (t, some v)) :
      clockEdge k p s = latchSample v t :=
    clockEdge_fire_some hf ((transferSample_eq_settled hdiv hfree).symm ▸ ht)
  have hquiet {t : State} (hr : t.remain = 0) (hd : t.divCnt = 0)
      (ht : acceptAtEdge k p.cmdWord (advancePosition (settled s)) = (t, none)) :
      (finishPending (clockEdge k p s)).transactionView = t.transactionView := by
    rw [hnone ht, finishPending_releaseSample hd, hr]
    rfl
  rw [finishPending_of_remain hremain]
  rcases acceptCommand_cases p.cmdWord (settled s) with ⟨hd, e⟩ | ⟨sr, hd, e⟩ | ⟨hd, e⟩ | ⟨hd, hi, e⟩ |
    ⟨hd, hi, e⟩ | ⟨n, hd, hn, e⟩ | ⟨n, hd, hn, hi, e⟩ | ⟨n, hd, hn, hi, e⟩ | ⟨hd, -, e⟩ <;>
    rw [transact_of_next e]
  · exact hquiet hremain hdiv (acceptAtEdge_nop k _ hd)
  · rw [hnone (acceptAtEdge_init k _ hd)]
    exact finishPending_startInit k sr hremain
  · exact hquiet hremain hdiv (acceptAtEdge_reset k _ hd)
  · have hr : (advancePhase (advancePosition (settled s))).remain = 0 := hremain
    have hd' : (advancePhase (advancePosition (settled s))).divCnt = 0 := hdiv
    rw [hsome ((acceptAtEdge_tick k _ hd).trans (if_pos hi)), finishPending_latchSample hd', hr]
    rfl
  · exact hquiet hremain hdiv ((acceptAtEdge_tick k _ hd).trans (if_neg (by simp [hi])))
  · exact hquiet hremain hdiv (by rw [acceptAtEdge_block k _ hd, startBlock_eq, if_pos hn])
  · have hstart : startBlock n (advancePosition (settled s)) =
        setRemain (BitVec.ofInt 32 n) (advancePosition (settled s)) := by
      rw [startBlock_eq, if_neg hn.not_ge, if_pos (by simpa using hi)]
    rw [hnone (acceptAtEdge_block k _ hd), hstart,
      finishPending_releaseSample (s := setRemain _ (advancePosition (settled s))) hdiv, setRemain_remain,
      remain_of_block hd hn]
    exact repeatTicks_view_congr (t := advancePosition (settled s)) (by rfl) _
  · exact hquiet hremain hdiv (by
      rw [acceptAtEdge_block k _ hd, startBlock_eq, if_neg hn.not_ge, if_neg (by simpa using hi)])
  · exact hquiet hremain hdiv (acceptAtEdge_reserved k _ hd)

/-- Settles O50: an edge accepts a word or carries on with the work in progress. -/
theorem edgeRefinesTransaction : Obligations.EdgeRefinesTransaction :=
  fun k _ _ h hr => ⟨finishPending_clockEdge k h hr, finishPending_clockEdge_fire k⟩

/-! Runs of edges from reset (R163). -/

/-- A schedule of edges without reset amounts to the transactions of the words it accepts. -/
theorem finishPending_runEdges (k : DivCount) {ps : List Pins} {s : State} (h : s.Consistent)
    (hps : ∀ p ∈ ps, p.rst = false) :
    (finishPending (runEdges k ps s)).transactionView =
      (transactAll (acceptedWords k ps s) (finishPending s)).transactionView := by
  induction ps generalizing s with
  | nil => rfl
  | cons p ps ih =>
    obtain ⟨hr, hps⟩ := List.forall_mem_cons.1 hps
    obtain ⟨hidle, hfire⟩ := edgeRefinesTransaction k p s h hr
    rw [runEdges, ih (consistent_clockEdge k p h) hps, acceptedWords]
    cases hf : cmdFire p s
    · exact transactAll_view_congr (hidle hf) _
    · exact transactAll_view_congr (hfire hf) _

/-- What has been transferred is the start of the output with the work in progress done. -/
theorem samples_prefix_finishPending (s : State) : s.samples <+: (finishPending s).samples := by
  rw [finishPending_eq, repeatTicks_samples_eq]
  exact (List.prefix_append _ _).trans (List.prefix_append _ _)

/-- Settles O51: the edges amount to the transactions, once the work in progress is done; where the port
is ready none of it touches the registers. -/
theorem runAgreesWithTransactions : Obligations.RunAgreesWithTransactions := by
  rintro k ps t u hps rfl rfl
  have hview := finishPending_runEdges k resetIsConsistent hps
  rw [finishPending_of_quiescent (s := State.reset) rfl] at hview
  refine ⟨?_, fun hq => ?_, fun p hready => ?_⟩
  · have hsamples : (finishPending (runEdges k ps State.reset)).samples =
        (transactAll (acceptedWords k ps State.reset) State.reset).samples :=
      congrArg TransactionView.samples hview
    exact hsamples ▸ samples_prefix_finishPending (runEdges k ps State.reset)
  · rw [finishPending_of_quiescent hq] at hview
    exact congrArg TransactionView.samples hview
  · obtain ⟨-, hremain, hdiv, -⟩ := (cmdReady_iff _ _).1 hready
    rw [finishPending_of_remain hremain, settled, pendingPinc, if_pos hdiv] at hview
    obtain ⟨hinit, hsrc, hpinc, hphase, hgate, huninit, hbadop, -⟩ := TransactionView.mk.inj hview
    exact ⟨hinit, hsrc, hpinc, hphase, hgate, huninit, hbadop⟩

end Sys2Proof.Machine

/-! PROOFS. The results of runs (R131, R163, R169): the registers, the output and the faults at the end of
a run, and that they are those of the transaction rules. -/

namespace Sys2Proof.Machine

/-! The output of a run is what it appends (R169). -/

/-- An edge only appends to the output (R162). -/
theorem samples_prefix_clockEdge (k : DivCount) (p : Pins) (s : State) :
    s.samples <+: (clockEdge k p s).samples := by
  cases hr : p.rst
  · obtain ⟨v, d, i, c, n, e⟩ := clockEdge_eq_commandSide k s hr
    have htransfer : s.samples <+: (transferSample p s).samples := by
      rw [transferSample_samples]
      split
      · exact List.prefix_append _ _
      · exact List.prefix_rfl
    rw [e]
    refine commandSide_elim (P := fun t => s.samples <+: t.samples) k p _ (fun _ => ?_)
      (fun _ => htransfer) (fun _ => htransfer)
    refine acceptAtEdge_elim (P := fun t => s.samples <+: t.samples) k p.cmdWord _ htransfer
      (fun sr => ?init) htransfer (fun _ => htransfer) (fun _ _ => htransfer) htransfer htransfer
    case init =>
      obtain ⟨v, n, e, -⟩ := startInit_eq k sr (advancePosition (transferSample p s))
      exact e ▸ htransfer
  · rw [clockEdge_rst k s hr]
    exact List.prefix_rfl

/-- A step only appends to the output. -/
theorem samples_prefix_nextState (s : State) : s.samples <+: (nextState s).samples := by
  rcases nextState_cases s with ⟨p, rest, -, e, -, -⟩ | ⟨w, rest, -, -, e, -, -⟩ | ⟨e, -, -⟩
  · exact e ▸ samples_prefix_clockEdge _ p (setInputs rest s)
  · obtain ⟨l, hl, -⟩ := appendsInBound_acceptCommand e
    exact ⟨l, hl.symm⟩
  · exact e ▸ samples_prefix_clockEdge _ idlePins s

theorem samples_prefix_iterate (j : Nat) (s : State) : s.samples <+: (nextState^[j] s).samples := by
  induction j with
  | zero => exact List.prefix_rfl
  | succ j ih =>
    rw [Function.iterate_succ_apply']
    exact ih.trans (samples_prefix_nextState _)

theorem runFaults_ne_nil_iff (s : State) :
    runFaults s ≠ [] ↔ s.errUninit = true ∨ s.errBadop = true := by
  rw [runFaults]
  cases s.errUninit <;> cases s.errBadop <;> simp

/-- What a run that ends reports. -/
theorem runResult_of_endOfRun {n : Nat} {q : List CmdWord} {s t : State}
    (h : endOfRun n false q s = some t) :
    runResult n q s = some
      { final := { t.transactionView with samples := t.samples.drop s.samples.length }
        faults := runFaults t } := by
  rw [runResult, h, Option.map_some]

/-- Settles O55. -/
theorem runResultReportsEnd : Obligations.RunResultReportsEnd := by
  intro n q s t h
  refine ⟨_, runResult_of_endOfRun h, rfl, rfl, rfl, rfl, rfl, rfl, rfl, ?_, runFaults_ne_nil_iff t⟩
  obtain ⟨j, -, rfl, -⟩ := endOfRun_iff.1 h
  obtain ⟨l, hl⟩ := samples_prefix_iterate j s
  simp [← hl]

/-! Each step (R163). -/

/-- A command word run as a transaction leaves the block quiescent (R90). -/
theorem quiescent_acceptCommand {w : CmdWord} {s t : State} (hq : quiescent s = true)
    (ht : acceptCommand w s = .next t) : quiescent t = true := by
  refine acceptCommand_elim (P := fun t => quiescent t = true) ht hq (fun _ => hq) hq (fun n _ => ?_) hq hq
  obtain ⟨⟨-, -, -, -, hremain, hdiv, hsmp, -⟩, -⟩ := repeatTicks_frame n (advancePosition s)
  rw [quiescent_iff, hremain, hdiv, hsmp]
  exact (quiescent_iff s).1 hq

theorem finishPending_setInputs (l : List HostInput) (s : State) :
    (finishPending (setInputs l s)).transactionView = (finishPending s).transactionView :=
  finishPending_view_congr rfl rfl

/-- A step amounts to the transaction of the word it accepts, if any, provided that a reset edge comes in
reset registers only (R163). -/
theorem finishPending_nextState {s : State} (h : s.Consistent)
    (hreset : resetStep s = true → hardwareReset s = s) :
    (finishPending (nextState s)).transactionView =
      (transactAll (acceptedByStep s).toList (finishPending s)).transactionView := by
  rcases nextState_cases s with ⟨p, rest, -, e, ha, hr⟩ | ⟨w, rest, -, hq, e, ha, -⟩ | ⟨e, ha, -⟩
  case inl =>
    rw [e, ha]
    cases hrst : p.rst
    · obtain ⟨hidle, hfire⟩ := edgeRefinesTransaction Config.initCyclesLessOne p (setInputs rest s)
        ((consistent_setInputs rest s).2 h) hrst
      cases hf : cmdFire p s
      · exact (hidle hf).trans (finishPending_setInputs rest s)
      · exact (hfire hf).trans (transactAll_view_congr (finishPending_setInputs rest s) [p.cmdWord])
    · obtain ⟨-, hf, -⟩ := resetEdgeAcceptsNothing 0 p s hrst
      have hkeep : hardwareReset (setInputs rest s) = setInputs rest s :=
        congrArg (setInputs rest) (hreset (hr.trans hrst))
      rw [clockEdge_rst _ _ hrst, hkeep, hf]
      exact finishPending_setInputs rest s
  case inr.inl =>
    rw [finishPending_of_quiescent (quiescent_acceptCommand (s := setInputs rest s) hq e), ha,
      finishPending_of_quiescent hq, ← transact_of_next e]
    exact transactAll_view_congr (s := setInputs rest s) (t := s) rfl [w]
  case inr.inr =>
    rw [e, ha]
    exact finishPending_clockEdge _ h rfl rfl

/-- Reset registers are quiescent (R35). -/
theorem quiescent_of_hardwareReset {s : State} (h : hardwareReset s = s) : quiescent s = true := by
  rw [← h]
  rfl

/-- Nothing happens at an edge that accepts nothing in a quiescent block (R143). -/
theorem clockEdge_of_quiescent (k : DivCount) {p : Pins} {s : State} (hr : p.rst = false)
    (hf : cmdFire p s = false) (hq : quiescent s = true) : clockEdge k p s = s := by
  obtain ⟨hremain, hdiv, hsmp⟩ := (quiescent_iff s).1 hq
  have hvalid : p.cmdValid = false := by
    have hready : cmdReady p s = true := (cmdReady_iff p s).2 ⟨hr, hremain, hdiv, .inl hsmp⟩
    simpa only [cmdFire, hready, Bool.and_true] using hf
  rw [idleBlockHoldsState k p s hr hvalid hremain hdiv, if_neg (by simp [hsmp])]

/-- Until a command is accepted the registers stay reset (R150). -/
theorem hardwareReset_nextState_of_none {s : State} (h : hardwareReset s = s)
    (ha : acceptedByStep s = none) : hardwareReset (nextState s) = nextState s := by
  have hq : quiescent s = true := quiescent_of_hardwareReset h
  rcases nextState_cases s with ⟨p, rest, -, e, hp, hr⟩ | ⟨w, rest, -, -, -, hw, -⟩ | ⟨e, -, -⟩
  case inl =>
    cases hrst : p.rst
    · have hf : cmdFire p (setInputs rest s) = false := by
        by_contra hf
        have hfire : cmdFire p s = true := Bool.eq_true_of_not_eq_false hf
        simp [hp, hfire] at ha
      rw [e, clockEdge_of_quiescent _ hrst hf hq]
      exact congrArg (setInputs rest) h
    · exact hardwareReset_nextState (hr.trans hrst)
  case inr.inl => exact nomatch ha.symm.trans hw
  case inr.inr => rw [e, clockEdge_of_quiescent _ rfl rfl hq, h]

/-- The steps of a run that no reset edge cuts off amount to the transactions of the words accepted
(R163). -/
theorem finishPending_iterate {j : Nat} {begun : Bool} {s : State} (hc : s.Consistent)
    (hcut : Uncut begun s j) (hreset : begun = false → hardwareReset s = s) :
    (finishPending (nextState^[j] s)).transactionView =
      (transactAll (acceptedIn j s) (finishPending s)).transactionView := by
  induction j generalizing begun s with
  | zero => rfl
  | succ j ih =>
    obtain ⟨hnow, hlater⟩ := (uncut_succ begun s j).1 hcut
    have hc' : (nextState s).Consistent := stepKeepsConsistency s _ hc (step_eq_nextState s)
    have hreset' : (begun || (acceptedByStep s).isSome) = false →
        hardwareReset (nextState s) = nextState s := fun hb => by
      obtain ⟨hbegun, hnone⟩ := Bool.or_eq_false_iff.1 hb
      exact hardwareReset_nextState_of_none (hreset hbegun) (by simpa using hnone)
    have hstep := finishPending_nextState hc fun hr => hreset (by simpa [hr] using hnow)
    rw [acceptedIn_succ, transactAll_append]
    exact (ih hc' hlater hreset').trans (transactAll_view_congr hstep _)

/-- Settles O56: nothing is pending at reset and nothing at the end. -/
theorem runResultIsTransactional : Obligations.RunResultIsTransactional := by
  intro n q s t h hend
  obtain ⟨j, -, rfl, hj⟩ := endOfRun_iff.1 hend
  have hc : s.Consistent := h ▸ consistent_hardwareReset s
  have hview := finishPending_iterate hc hj.uncut fun _ => h
  rwa [finishPending_of_quiescent hj.idle, hj.accepted,
    finishPending_of_quiescent (quiescent_of_hardwareReset h)] at hview

/-! The runs of a schedule (R169). -/

/-- A run ends exactly if R169's conditions hold after some step, and it is not cut off before. -/
theorem endOfRun_isSome_iff (n : Nat) (q : List CmdWord) (s : State) :
    (endOfRun n false q s).isSome = true ↔
      ∃ j ≤ n, acceptedIn j s = q ∧ quiescent (nextState^[j] s) = true ∧ Uncut false s j := by
  constructor
  · intro h
    obtain ⟨t, ht⟩ := Option.isSome_iff_exists.1 h
    obtain ⟨j, hj, -, h⟩ := endOfRun_iff.1 ht
    exact ⟨j, Nat.le_of_lt_succ hj, h.accepted, h.idle, h.uncut⟩
  · rintro ⟨j, hj, ha, hq, hcut⟩
    classical
    have hex : ∃ m, acceptedIn m s = q ∧ quiescent (nextState^[m] s) = true := ⟨j, ha, hq⟩
    have hle : Nat.find hex ≤ j := Nat.find_min' hex ⟨ha, hq⟩
    obtain ⟨hfa, hfq⟩ := Nat.find_spec hex
    exact Option.isSome_iff_exists.2 ⟨_, endOfRun_iff.2 ⟨Nat.find hex, by omega, rfl, hfa, hfq,
      fun m hm => Nat.find_min hex hm, fun m hm => hcut m (hm.trans_le hle)⟩⟩

/-- The transaction rules give the same from any reset registers, but for the output before (R35). -/
theorem agreeSince_reset {s : State} (h : hardwareReset s = s) :
    AgreeSince s.samples [] s State.reset := by
  have hreset : AgreeSince s.samples [] (hardwareReset s) State.reset :=
    ⟨⟨⟨rfl, rfl, rfl, rfl⟩, [], by simp, rfl⟩, rfl, rfl, rfl⟩
  rwa [h] at hreset

/-- The faults are the error flags, and depend on nothing else (R131). -/
theorem runFaults_congr {s t : State} (hu : s.errUninit = t.errUninit) (hb : s.errBadop = t.errBadop) :
    runFaults s = runFaults t := by
  rw [runFaults, runFaults, hu, hb]

/-- Without what was there before them, outputs that agree are the same. -/
theorem transactionView_of_agreeSince {a : List Word} {s t : State} (h : AgreeSince a [] s t) :
    { s.transactionView with samples := s.samples.drop a.length } = t.transactionView := by
  obtain ⟨⟨⟨hinit, hpinc, hphase, hgate⟩, l, hs, ht⟩, hsrc, huninit, hbadop⟩ := h
  simp only [State.transactionView, hinit, hpinc, hphase, hgate, hs, ht, hsrc, huninit, hbadop,
    List.drop_left, List.nil_append]

/-- The result of a run from reset registers is that of its sequence from reset (R163, R169). -/
theorem runResult_of_hardwareReset {n : Nat} {q : List CmdWord} {s : State} {r : RunResult}
    (h : hardwareReset s = s) (hr : runResult n q s = some r) :
    r.final = (transactAll q State.reset).transactionView ∧
      r.faults = runFaults (transactAll q State.reset) := by
  obtain ⟨t, ht, rfl⟩ := Option.map_eq_some_iff.1 hr
  have hview := runResultIsTransactional n q s t h ht
  have hagree := agreeSince_transactAll (agreeSince_reset h) q
  constructor
  · change { t.transactionView with samples := t.transactionView.samples.drop s.samples.length } = _
    rw [hview]
    exact transactionView_of_agreeSince hagree
  · obtain ⟨-, -, huninit, hbadop⟩ := hagree
    exact runFaults_congr ((congrArg TransactionView.errUninit hview).trans huninit)
      ((congrArg TransactionView.errBadop hview).trans hbadop)

/-- Settles O59. -/
theorem runsOfAScheduleAreTransactional : Obligations.RunsOfAScheduleAreTransactional := by
  intro n s
  have hmem {q : List CmdWord} {o : Option RunResult} (h : (q, o) ∈ runsWithin n s) :
      ∃ u, (u = s ∨ u ∈ runStarts n false s) ∧ q = sequenceOfRun n false u ∧ o = runResult n q u := by
    obtain ⟨u, hu, e⟩ := List.mem_map.1 h
    obtain ⟨rfl, rfl⟩ := Prod.mk.inj e
    exact ⟨u, List.mem_cons.1 hu, rfl, rfl⟩
  refine ⟨?_, fun q o h => ?_, fun h q r hr => ?_⟩
  · rw [runsWithin, List.map_map]
    rfl
  · obtain ⟨u, hu, hq, rfl⟩ := hmem h
    refine ⟨u, hu, hq, ?_⟩
    rw [runResult, Option.isSome_map, endOfRun_isSome_iff]
    simp only [Uncut, true_and]
    rfl
  · obtain ⟨u, hu, -, e⟩ := hmem hr
    have hreset : hardwareReset u = u := by
      rcases hu with rfl | hu
      · exact h
      · exact laterRunsStartFromReset.2 n s u hu
    exact runResult_of_hardwareReset hreset e.symm

end Sys2Proof.Machine
